-- ==== Sys2Proof/Word.lean ====
section
/-!
DEFINITION. The word types of the machine: bytes, instruction words, register numbers, 12-bit
addresses (00_scope.md R5, R8).
-/

namespace Sys2Proof

/-- A byte: the contents of a `V` register, a timer or a memory cell (R5, `REG_W = 8`). -/
abbrev Byte := BitVec 8

/-- A 16-bit word: an instruction, `PC`, `I` or a stack entry (R5). -/
abbrev Word := BitVec 16

/-- The number of a `V` register: a 4-bit field `x` or `y` of a word, all values legal (R91, R93). -/
abbrev RegIx := BitVec 4

/-- A 12-bit address, the field `nnn` of a word (R91). -/
abbrev Addr := BitVec 12

end Sys2Proof
end

