-- ==== Sys2Proof/Config.lean ====
section
/-!
DEFINITION. What is fixed for one launch of the machine (00_scope.md R6, 10_state.md R43), what the
host brings to a launch (70_reset_and_hazards.md R354), the per-step inputs (R44, R45), and the free
values that stand for inputs nobody has scheduled.
-/

namespace Sys2Proof

/-- `SHIFT_QUIRK` (R6): which register the two shift instructions shift. -/
inductive ShiftQuirk where
  /-- The source of a shift is `Vx` (R220, R224); the default. -/
  | fixed
  /-- The source of a shift is `Vy` (R220, R224). -/
  | classic
  deriving DecidableEq, Repr

/-- The configuration inputs, stable from one `rst` to the next (R6, R43). They stand in State
because `step` has no other argument (DESIGN CHOICE, log 2). -/
structure Config where
  /-- `END_ADDR`: the address after the last byte the loader wrote. -/
  endAddr : Word
  /-- `SHIFT_QUIRK`. -/
  shiftQuirk : ShiftQuirk
  /-- `VWRAP`: sprite rows below row 31 wrap to the top (true) or are dropped (false). -/
  vwrap : Bool
  /-- `FONT_BASE`: where the font table begins. -/
  fontBase : Addr
  deriving DecidableEq, Repr

/-- What the environment supplies for one step: the Input Latch `keys` (R44) and the random byte
`rnd` (R45). -/
structure StepInput where
  /-- Bit `k` is 1 when key `k` is pressed (R44). -/
  keys : BitVec 16
  /-- The step's random byte (R45). -/
  rnd : Byte
  deriving DecidableEq, Repr

/-- What the host brings to a launch (R354): the configuration, the font bytes, the program. -/
structure LaunchPlan where
  shiftQuirk : ShiftQuirk
  vwrap : Bool
  fontBase : Addr
  /-- `FONT_DATA`: 16 glyphs of 5 bytes (R66). -/
  fontData : Vector Byte 80
  /-- The program image, byte by byte from 0x200 on (R354). -/
  program : List Byte
  deriving DecidableEq, Repr

/-- FREE VALUE (log 1): the Input Latch at input number `n`, where no schedule gives it. R44: "any of
the 65536 values may appear at any step". -/
opaque Config.freeKeys : Nat → BitVec 16

/-- FREE VALUE (log 1): the random byte at input number `n`, where no schedule gives it. R45: "any of
256 values at any step, unrelated to earlier values". -/
opaque Config.freeRnd : Nat → Byte

end Sys2Proof
end

