-- ==== Sys2Proof/Syntax.lean ====
section
/-!
DEFINITION. The instruction set: one constructor of `Instr` per row of spec/opcode_table.json
(30_encoding.md R96), in the table's order, and the six formats of R92.
-/

namespace Sys2Proof

/-- The 34 instructions (R96). Operand names are the fields of R91: `x`, `y` register numbers, `n` a
row count, `kk` an immediate byte, `nnn` a 12-bit address. -/
inductive Instr where
  /-- 00E0 `clear` (R150). -/
  | clear
  /-- 00EE `return` (R172). -/
  | ret
  /-- 1nnn `jump` (R174). -/
  | jump (nnn : Addr)
  /-- 2nnn `call` (R176). -/
  | call (nnn : Addr)
  /-- 3xkk `skip-eq-imm` (R178). -/
  | skipEqImm (x : RegIx) (kk : Byte)
  /-- 4xkk `skip-ne-imm` (R180). -/
  | skipNeImm (x : RegIx) (kk : Byte)
  /-- 5xy0 `skip-eq-reg` (R182). -/
  | skipEqReg (x y : RegIx)
  /-- 6xkk `load-imm` (R204). -/
  | loadImm (x : RegIx) (kk : Byte)
  /-- 7xkk `add-imm` (R206). -/
  | addImm (x : RegIx) (kk : Byte)
  /-- 8xy0 `move` (R208). -/
  | move (x y : RegIx)
  /-- 8xy1 `or` (R210). -/
  | or (x y : RegIx)
  /-- 8xy2 `and` (R212). -/
  | and (x y : RegIx)
  /-- 8xy3 `xor` (R214). -/
  | xor (x y : RegIx)
  /-- 8xy4 `add` (R216). -/
  | add (x y : RegIx)
  /-- 8xy5 `sub` (R218). -/
  | sub (x y : RegIx)
  /-- 8xy6 `shift-right` (R220). -/
  | shiftRight (x y : RegIx)
  /-- 8xy7 `subn` (R222). -/
  | subn (x y : RegIx)
  /-- 8xyE `shift-left` (R224). -/
  | shiftLeft (x y : RegIx)
  /-- 9xy0 `skip-ne-reg` (R183). -/
  | skipNeReg (x y : RegIx)
  /-- Annn `load-addr` (R242). -/
  | loadAddr (nnn : Addr)
  /-- Bnnn `jump-offset` (R184). -/
  | jumpOffset (nnn : Addr)
  /-- Cxkk `random` (R226). -/
  | random (x : RegIx) (kk : Byte)
  /-- Dxyn `draw` (R152). -/
  | draw (x y : RegIx) (n : BitVec 4)
  /-- Ex9E `skip-key-down` (R272). -/
  | skipKeyDown (x : RegIx)
  /-- ExA1 `skip-key-up` (R274). -/
  | skipKeyUp (x : RegIx)
  /-- Fx07 `read-delay` (R276). -/
  | readDelay (x : RegIx)
  /-- Fx0A `wait-key` (R282). -/
  | waitKey (x : RegIx)
  /-- Fx15 `set-delay` (R286). -/
  | setDelay (x : RegIx)
  /-- Fx18 `set-sound` (R288). -/
  | setSound (x : RegIx)
  /-- Fx1E `add-addr` (R244). -/
  | addAddr (x : RegIx)
  /-- Fx29 `sprite-addr` (R246). -/
  | spriteAddr (x : RegIx)
  /-- Fx33 `bcd` (R248). -/
  | bcd (x : RegIx)
  /-- Fx55 `store-regs` (R252). -/
  | storeRegs (x : RegIx)
  /-- Fx65 `load-regs` (R256). -/
  | loadRegs (x : RegIx)
  deriving DecidableEq, Repr

/-- The six formats of R92: which fields of the word an instruction uses. -/
inductive Format where
  | fixed
  | nnn
  | xkk
  | xy
  | xyn
  | x
  deriving DecidableEq, Repr

/-- The numbers written in an instruction's operand places, before they are known to fit (R91). A
place its format does not use holds 0. -/
structure RawOperands where
  x : Nat := 0
  y : Nat := 0
  n : Nat := 0
  kk : Nat := 0
  nnn : Nat := 0
  deriving DecidableEq, Repr

end Sys2Proof
end

