-- ==== Sys2Proof/WellFormed.lean ====
section
/-!
DEFINITION. What a well-formed instruction, configuration and launch are. The operand types of
`Instr` already carry the field widths of R91, so the check on raw operand numbers is what a writer
of instructions meets; `Instr.wellFormed` applies it to an instruction's own operands.
-/

namespace Sys2Proof

/-- The format of each instruction (R92). -/
def Instr.format : Instr → Format
  | .clear => .fixed
  | .ret => .fixed
  | .jump _ => .nnn
  | .call _ => .nnn
  | .skipEqImm _ _ => .xkk
  | .skipNeImm _ _ => .xkk
  | .skipEqReg _ _ => .xy
  | .loadImm _ _ => .xkk
  | .addImm _ _ => .xkk
  | .move _ _ => .xy
  | .or _ _ => .xy
  | .and _ _ => .xy
  | .xor _ _ => .xy
  | .add _ _ => .xy
  | .sub _ _ => .xy
  | .shiftRight _ _ => .xy
  | .subn _ _ => .xy
  | .shiftLeft _ _ => .xy
  | .skipNeReg _ _ => .xy
  | .loadAddr _ => .nnn
  | .jumpOffset _ => .nnn
  | .random _ _ => .xkk
  | .draw _ _ _ => .xyn
  | .skipKeyDown _ => .x
  | .skipKeyUp _ => .x
  | .readDelay _ => .x
  | .waitKey _ => .x
  | .setDelay _ => .x
  | .setSound _ => .x
  | .addAddr _ => .x
  | .spriteAddr _ => .x
  | .bcd _ => .x
  | .storeRegs _ => .x
  | .loadRegs _ => .x

/-- The operand numbers of an instruction. -/
def Instr.operands : Instr → RawOperands
  | .clear => {}
  | .ret => {}
  | .jump nnn => { nnn := nnn.toNat }
  | .call nnn => { nnn := nnn.toNat }
  | .skipEqImm x kk => { x := x.toNat, kk := kk.toNat }
  | .skipNeImm x kk => { x := x.toNat, kk := kk.toNat }
  | .skipEqReg x y => { x := x.toNat, y := y.toNat }
  | .loadImm x kk => { x := x.toNat, kk := kk.toNat }
  | .addImm x kk => { x := x.toNat, kk := kk.toNat }
  | .move x y => { x := x.toNat, y := y.toNat }
  | .or x y => { x := x.toNat, y := y.toNat }
  | .and x y => { x := x.toNat, y := y.toNat }
  | .xor x y => { x := x.toNat, y := y.toNat }
  | .add x y => { x := x.toNat, y := y.toNat }
  | .sub x y => { x := x.toNat, y := y.toNat }
  | .shiftRight x y => { x := x.toNat, y := y.toNat }
  | .subn x y => { x := x.toNat, y := y.toNat }
  | .shiftLeft x y => { x := x.toNat, y := y.toNat }
  | .skipNeReg x y => { x := x.toNat, y := y.toNat }
  | .loadAddr nnn => { nnn := nnn.toNat }
  | .jumpOffset nnn => { nnn := nnn.toNat }
  | .random x kk => { x := x.toNat, kk := kk.toNat }
  | .draw x y n => { x := x.toNat, y := y.toNat, n := n.toNat }
  | .skipKeyDown x => { x := x.toNat }
  | .skipKeyUp x => { x := x.toNat }
  | .readDelay x => { x := x.toNat }
  | .waitKey x => { x := x.toNat }
  | .setDelay x => { x := x.toNat }
  | .setSound x => { x := x.toNat }
  | .addAddr x => { x := x.toNat }
  | .spriteAddr x => { x := x.toNat }
  | .bcd x => { x := x.toNat }
  | .storeRegs x => { x := x.toNat }
  | .loadRegs x => { x := x.toNat }

/-- Do these numbers fit the fields of the format (R91, R92, R93)? `x`, `y`, `n` are 4 bits, `kk` 8,
`nnn` 12, and a field the format does not use is 0. -/
def operandsFit (f : Format) (o : RawOperands) : Bool :=
  match f with
  | .fixed => o == {}
  | .nnn => decide (o.nnn < 4096) && o == { nnn := o.nnn }
  | .xkk => decide (o.x < 16) && decide (o.kk < 256) && o == { x := o.x, kk := o.kk }
  | .xy => decide (o.x < 16) && decide (o.y < 16) && o == { x := o.x, y := o.y }
  | .xyn => decide (o.x < 16) && decide (o.y < 16) && decide (o.n < 16)
      && o == { x := o.x, y := o.y, n := o.n }
  | .x => decide (o.x < 16) && o == { x := o.x }

/-- A well-formed instruction: its operands fit its format. The types make every `Instr` so
(`Laws.instr_wellFormed`). -/
def Instr.wellFormed (i : Instr) : Bool := operandsFit i.format i.operands

/-- The constraints on the configuration inputs (R6, R356 (a)). -/
def Config.wellFormed (c : Config) : Bool :=
  decide (c.fontBase.toNat + 80 ≤ 0x200) && decide (0x200 ≤ c.endAddr.toNat)
    && decide (c.endAddr.toNat ≤ 0x1000)

/-- The font table lies inside the reserved region (R62). -/
def LaunchPlan.fontFits (l : LaunchPlan) : Bool := decide (l.fontBase.toNat + 80 ≤ 0x200)

/-- The program image fits between 0x200 and the end of memory (R354 (3)). -/
def LaunchPlan.programFits (l : LaunchPlan) : Bool := decide (l.program.length ≤ 3584)

/-- A launch that is not a load failure and whose font is where it may be: the only one that releases the
CORE from reset (R354 (3), 93_implementation_defined.md U17). -/
def LaunchPlan.fits (l : LaunchPlan) : Bool := l.fontFits && l.programFits

end Sys2Proof
end

