-- ==== Sys2Proof/Decode.lean ====
section
/-!
DEFINITION. The decoder, total on every word and on every list of bytes, rejecting by name; the
encoder; and the opcode map as data (30_encoding.md R90 to R101, 40_engine.md R124, R126).
-/

namespace Sys2Proof

/-! ### The fields of a word (R91, R124) -/

/-- `w[15:12]`, the opcode family. -/
def opField (w : Word) : BitVec 4 := w.extractLsb' 12 4
/-- `w[11:8]`. -/
def xField (w : Word) : RegIx := w.extractLsb' 8 4
/-- `w[7:4]`. -/
def yField (w : Word) : RegIx := w.extractLsb' 4 4
/-- `w[3:0]`. -/
def nField (w : Word) : BitVec 4 := w.extractLsb' 0 4
/-- `w[7:0]`. -/
def kkField (w : Word) : Byte := w.extractLsb' 0 8
/-- `w[11:0]`. -/
def nnnField (w : Word) : Addr := w.extractLsb' 0 12

/-! ### Decoding -/

/-- Why bytes are no instruction. -/
inductive DecodeError where
  /-- The word matches no row of R96: an undefined instruction (R100). The engine halts with
  `UNDEFINED_INSTRUCTION`. Safe: nothing is executed. -/
  | undefinedInstruction (w : Word)
  /-- Fewer than two bytes were given (R90). No fetch of the engine gives fewer. Safe. -/
  | truncated
  deriving DecidableEq, Repr

/-- Family 8, chosen by the low nibble (R94). -/
def decodeFamily8 (w : Word) : Except DecodeError Instr :=
  match (nField w).toNat with
  | 0x0 => .ok (.move (xField w) (yField w))
  | 0x1 => .ok (.or (xField w) (yField w))
  | 0x2 => .ok (.and (xField w) (yField w))
  | 0x3 => .ok (.xor (xField w) (yField w))
  | 0x4 => .ok (.add (xField w) (yField w))
  | 0x5 => .ok (.sub (xField w) (yField w))
  | 0x6 => .ok (.shiftRight (xField w) (yField w))
  | 0x7 => .ok (.subn (xField w) (yField w))
  | 0xE => .ok (.shiftLeft (xField w) (yField w))
  | _ => .error (.undefinedInstruction w)

/-- Family E, chosen by the low byte (R94). -/
def decodeFamilyE (w : Word) : Except DecodeError Instr :=
  if kkField w = 0x9E then .ok (.skipKeyDown (xField w))
  else if kkField w = 0xA1 then .ok (.skipKeyUp (xField w))
  else .error (.undefinedInstruction w)

/-- Family F, chosen by the low byte (R94). -/
def decodeFamilyF (w : Word) : Except DecodeError Instr :=
  if kkField w = 0x07 then .ok (.readDelay (xField w))
  else if kkField w = 0x0A then .ok (.waitKey (xField w))
  else if kkField w = 0x15 then .ok (.setDelay (xField w))
  else if kkField w = 0x18 then .ok (.setSound (xField w))
  else if kkField w = 0x1E then .ok (.addAddr (xField w))
  else if kkField w = 0x29 then .ok (.spriteAddr (xField w))
  else if kkField w = 0x33 then .ok (.bcd (xField w))
  else if kkField w = 0x55 then .ok (.storeRegs (xField w))
  else if kkField w = 0x65 then .ok (.loadRegs (xField w))
  else .error (.undefinedInstruction w)

/-- Decoding in two levels: the family, and in families 0, 8, E, F a secondary field (R94); families
5 and 9 require a low nibble of 0 (R101). -/
def decodeWord (w : Word) : Except DecodeError Instr :=
  match (opField w).toNat with
  | 0x0 =>
    if w = 0x00E0 then .ok .clear
    else if w = 0x00EE then .ok .ret
    else .error (.undefinedInstruction w)
  | 0x1 => .ok (.jump (nnnField w))
  | 0x2 => .ok (.call (nnnField w))
  | 0x3 => .ok (.skipEqImm (xField w) (kkField w))
  | 0x4 => .ok (.skipNeImm (xField w) (kkField w))
  | 0x5 =>
    if nField w = 0 then .ok (.skipEqReg (xField w) (yField w))
    else .error (.undefinedInstruction w)
  | 0x6 => .ok (.loadImm (xField w) (kkField w))
  | 0x7 => .ok (.addImm (xField w) (kkField w))
  | 0x8 => decodeFamily8 w
  | 0x9 =>
    if nField w = 0 then .ok (.skipNeReg (xField w) (yField w))
    else .error (.undefinedInstruction w)
  | 0xA => .ok (.loadAddr (nnnField w))
  | 0xB => .ok (.jumpOffset (nnnField w))
  | 0xC => .ok (.random (xField w) (kkField w))
  | 0xD => .ok (.draw (xField w) (yField w) (nField w))
  | 0xE => decodeFamilyE w
  | 0xF => decodeFamilyF w
  | _ => .error (.undefinedInstruction w)

/-- `{hi, lo}`: the word whose high byte stands at the lower address (R67). -/
def wordOfBytes (hi lo : Byte) : Word := hi ++ lo

/-- The high byte of a word, stored at the lower address (R67). -/
def highByte (w : Word) : Byte := w.extractLsb' 8 8

/-- The low byte of a word, stored at the higher address (R67). -/
def lowByte (w : Word) : Byte := w.extractLsb' 0 8

/-- Decode the instruction at the head of a list of bytes and give the rest (R90). -/
def decode : List Byte → Except DecodeError (Instr × List Byte)
  | hi :: lo :: rest =>
    match decodeWord (wordOfBytes hi lo) with
    | .ok i => .ok (i, rest)
    | .error e => .error e
  | _ => .error .truncated

/-! ### Encoding -/

/-- Format `NNN`: `{op, nnn}` (R92). -/
def wordNNN (op : BitVec 4) (nnn : Addr) : Word := op ++ nnn
/-- Formats `XKK` and `X`: `{op, x, kk}` (R92). -/
def wordXKK (op : BitVec 4) (x : RegIx) (kk : Byte) : Word := op ++ x ++ kk
/-- Formats `XY` and `XYN`: `{op, x, y, n}` (R92). -/
def wordXYN (op : BitVec 4) (x y : RegIx) (n : BitVec 4) : Word := op ++ x ++ y ++ n

/-- The word of an instruction, from the patterns of R96. -/
def encode : Instr → Word
  | .clear => 0x00E0
  | .ret => 0x00EE
  | .jump nnn => wordNNN 0x1 nnn
  | .call nnn => wordNNN 0x2 nnn
  | .skipEqImm x kk => wordXKK 0x3 x kk
  | .skipNeImm x kk => wordXKK 0x4 x kk
  | .skipEqReg x y => wordXYN 0x5 x y 0x0
  | .loadImm x kk => wordXKK 0x6 x kk
  | .addImm x kk => wordXKK 0x7 x kk
  | .move x y => wordXYN 0x8 x y 0x0
  | .or x y => wordXYN 0x8 x y 0x1
  | .and x y => wordXYN 0x8 x y 0x2
  | .xor x y => wordXYN 0x8 x y 0x3
  | .add x y => wordXYN 0x8 x y 0x4
  | .sub x y => wordXYN 0x8 x y 0x5
  | .shiftRight x y => wordXYN 0x8 x y 0x6
  | .subn x y => wordXYN 0x8 x y 0x7
  | .shiftLeft x y => wordXYN 0x8 x y 0xE
  | .skipNeReg x y => wordXYN 0x9 x y 0x0
  | .loadAddr nnn => wordNNN 0xA nnn
  | .jumpOffset nnn => wordNNN 0xB nnn
  | .random x kk => wordXKK 0xC x kk
  | .draw x y n => wordXYN 0xD x y n
  | .skipKeyDown x => wordXKK 0xE x 0x9E
  | .skipKeyUp x => wordXKK 0xE x 0xA1
  | .readDelay x => wordXKK 0xF x 0x07
  | .waitKey x => wordXKK 0xF x 0x0A
  | .setDelay x => wordXKK 0xF x 0x15
  | .setSound x => wordXKK 0xF x 0x18
  | .addAddr x => wordXKK 0xF x 0x1E
  | .spriteAddr x => wordXKK 0xF x 0x29
  | .bcd x => wordXKK 0xF x 0x33
  | .storeRegs x => wordXKK 0xF x 0x55
  | .loadRegs x => wordXKK 0xF x 0x65

/-- The two bytes of an instruction in memory order (R67). -/
def encodeBytes (i : Instr) : List Byte := [highByte (encode i), lowByte (encode i)]

/-! ### The opcode map as data (R96) -/

/-- One row of R96: a word `w` selects it when `w &&& mask = pattern`. -/
structure OpcodeRow where
  mnemonic : String
  format : Format
  /-- The column `match`. -/
  pattern : Word
  mask : Word
  deriving DecidableEq, Repr

/-- Does the word select the row (R96)? -/
def OpcodeRow.selects (row : OpcodeRow) (w : Word) : Bool := w &&& row.mask == row.pattern

/-- The row of each instruction (R96). -/
def Instr.row : Instr → OpcodeRow
  | .clear => ⟨"clear", .fixed, 0x00E0, 0xFFFF⟩
  | .ret => ⟨"return", .fixed, 0x00EE, 0xFFFF⟩
  | .jump _ => ⟨"jump", .nnn, 0x1000, 0xF000⟩
  | .call _ => ⟨"call", .nnn, 0x2000, 0xF000⟩
  | .skipEqImm _ _ => ⟨"skip-eq-imm", .xkk, 0x3000, 0xF000⟩
  | .skipNeImm _ _ => ⟨"skip-ne-imm", .xkk, 0x4000, 0xF000⟩
  | .skipEqReg _ _ => ⟨"skip-eq-reg", .xy, 0x5000, 0xF00F⟩
  | .loadImm _ _ => ⟨"load-imm", .xkk, 0x6000, 0xF000⟩
  | .addImm _ _ => ⟨"add-imm", .xkk, 0x7000, 0xF000⟩
  | .move _ _ => ⟨"move", .xy, 0x8000, 0xF00F⟩
  | .or _ _ => ⟨"or", .xy, 0x8001, 0xF00F⟩
  | .and _ _ => ⟨"and", .xy, 0x8002, 0xF00F⟩
  | .xor _ _ => ⟨"xor", .xy, 0x8003, 0xF00F⟩
  | .add _ _ => ⟨"add", .xy, 0x8004, 0xF00F⟩
  | .sub _ _ => ⟨"sub", .xy, 0x8005, 0xF00F⟩
  | .shiftRight _ _ => ⟨"shift-right", .xy, 0x8006, 0xF00F⟩
  | .subn _ _ => ⟨"subn", .xy, 0x8007, 0xF00F⟩
  | .shiftLeft _ _ => ⟨"shift-left", .xy, 0x800E, 0xF00F⟩
  | .skipNeReg _ _ => ⟨"skip-ne-reg", .xy, 0x9000, 0xF00F⟩
  | .loadAddr _ => ⟨"load-addr", .nnn, 0xA000, 0xF000⟩
  | .jumpOffset _ => ⟨"jump-offset", .nnn, 0xB000, 0xF000⟩
  | .random _ _ => ⟨"random", .xkk, 0xC000, 0xF000⟩
  | .draw _ _ _ => ⟨"draw", .xyn, 0xD000, 0xF000⟩
  | .skipKeyDown _ => ⟨"skip-key-down", .x, 0xE09E, 0xF0FF⟩
  | .skipKeyUp _ => ⟨"skip-key-up", .x, 0xE0A1, 0xF0FF⟩
  | .readDelay _ => ⟨"read-delay", .x, 0xF007, 0xF0FF⟩
  | .waitKey _ => ⟨"wait-key", .x, 0xF00A, 0xF0FF⟩
  | .setDelay _ => ⟨"set-delay", .x, 0xF015, 0xF0FF⟩
  | .setSound _ => ⟨"set-sound", .x, 0xF018, 0xF0FF⟩
  | .addAddr _ => ⟨"add-addr", .x, 0xF01E, 0xF0FF⟩
  | .spriteAddr _ => ⟨"sprite-addr", .x, 0xF029, 0xF0FF⟩
  | .bcd _ => ⟨"bcd", .x, 0xF033, 0xF0FF⟩
  | .storeRegs _ => ⟨"store-regs", .x, 0xF055, 0xF0FF⟩
  | .loadRegs _ => ⟨"load-regs", .x, 0xF065, 0xF0FF⟩

/-- The 34 rows of R96 in the table's order. -/
def opcodeTable : List OpcodeRow :=
  [Instr.row .clear, Instr.row .ret, Instr.row (.jump 0), Instr.row (.call 0),
    Instr.row (.skipEqImm 0 0), Instr.row (.skipNeImm 0 0), Instr.row (.skipEqReg 0 0),
    Instr.row (.loadImm 0 0), Instr.row (.addImm 0 0), Instr.row (.move 0 0),
    Instr.row (.or 0 0), Instr.row (.and 0 0)]
  ++ [Instr.row (.xor 0 0), Instr.row (.add 0 0), Instr.row (.sub 0 0),
    Instr.row (.shiftRight 0 0), Instr.row (.subn 0 0), Instr.row (.shiftLeft 0 0),
    Instr.row (.skipNeReg 0 0), Instr.row (.loadAddr 0), Instr.row (.jumpOffset 0),
    Instr.row (.random 0 0), Instr.row (.draw 0 0 0)]
  ++ [Instr.row (.skipKeyDown 0), Instr.row (.skipKeyUp 0), Instr.row (.readDelay 0),
    Instr.row (.waitKey 0), Instr.row (.setDelay 0), Instr.row (.setSound 0),
    Instr.row (.addAddr 0), Instr.row (.spriteAddr 0), Instr.row (.bcd 0),
    Instr.row (.storeRegs 0), Instr.row (.loadRegs 0)]

/-! ### The host's question -/

/-- The instruction the decoder reads from the table word `w` (bit 0 the least significant bit of the
one instruction word), its bytes laid out as memory holds them (R67). -/
def decodeTableWord (nbits w : Nat) : Option Instr :=
  let word : Word := BitVec.ofNat 16 (w % 2 ^ nbits)
  match decode [highByte word, lowByte word] with
  | .ok (i, _) => some i
  | .error _ => none

end Sys2Proof
end

