-- ==== Sys2Proof/Machine/State.lean ====
section
/-!
DEFINITION. The state of the machine as plain data, the reasons a step or a launch can stop, and the
state right after reset (10_state.md R20 to R33, R50).
-/

namespace Sys2Proof.Machine

/-- `STATUS` (R29): "the engine has no states beyond 'running' and 'halted'". -/
inductive Status where
  | running
  | halted
  deriving DecidableEq, Repr

/-- `CAUSE` (R30): the causes of R302, in the order of their codes. -/
inductive Cause where
  | none
  | endReached
  | fetchOutOfBounds
  | pcMisaligned
  | undefinedInstruction
  | stackOverflow
  | stackUnderflow
  | addressOutOfRange
  | keyIndexOutOfRange
  | fontIndexOutOfRange
  deriving DecidableEq, Repr

/-- The display buffer `D` (R28): 32 rows of 64 pixels; `D[y][x]`. -/
abbrev Display := Vector (Vector Bool 64) 32

/-- `MEM` (R31, R60) as the list of the bytes that differ from `Memory.background`, addresses strictly
rising (`Memory.wf`; DESIGN CHOICE, log 3). -/
abbrev Memory := List Host.Cell

/-- Why the machine stops with a fault. No step and no instruction does: every fault of the spec's
program behaviour is a halt, which is a next state (R301, R310; log 4). -/
inductive Fault where
  /-- Raised by `State.launch` alone: the program image does not fit into memory (R300 (a), R354 (3):
  "fatal, surfaced before execution starts"). Safe: no launched state exists. -/
  | loadFailure
  deriving DecidableEq, Repr

/-- Why the model gives no meaning. -/
inductive Refusal where
  /-- Raised by an arm of `exec` whose instruction has no meaning; no arm does. Safe. -/
  | notModelled (mnemonic : String)
  /-- Raised by `State.launch` alone: a configuration the model does not accept
  (93_implementation_defined.md U14, U17: `FONT_BASE + 80 > 0x200`). Safe: no launched state exists. -/
  | invalidConfiguration
  deriving DecidableEq, Repr

/-- The state of the machine: the registers and arrays of R32, the configuration inputs the launch
holds (R43), and the model's own input schedule (log 1). -/
structure State where
  /-- `V[0..15]` (R20, R21). -/
  v : Vector Byte 16
  /-- `I` (R22). -/
  i : Word
  /-- `PC` (R23). -/
  pc : Word
  /-- `STACK[0..15]` (R24). -/
  stack : Vector Word 16
  /-- `SP`, the number of valid entries, 0 to 16 (R25; log 9). -/
  sp : Fin 17
  /-- `DT` (R26). -/
  dt : Byte
  /-- `ST` (R27). -/
  st : Byte
  /-- `D` (R28). -/
  disp : Display
  /-- `MEM` (R31). -/
  mem : Memory
  /-- `STATUS` (R29). -/
  status : Status
  /-- `CAUSE` (R30). -/
  cause : Cause
  /-- The configuration inputs, constant while the machine runs (R43; log 2). -/
  cfg : Config
  /-- The MODEL's own: the inputs of the next steps, the next step's first (log 1). -/
  inputs : List StepInput
  /-- The MODEL's own: how many inputs have been taken (log 1). -/
  inputNo : Nat
  deriving DecidableEq, Repr

/-- What one instruction, or one step, answers. -/
abbrev Result := Host.Outcome State Fault Refusal

/-- The state right after reset (R50, R350). `MEM` lists nothing, so every byte reads as
`Memory.background` (log 3); the configuration is the spec's default and recommended values with the
`END_ADDR` of an empty program (log 2); no input is scheduled (log 1). -/
def State.reset : State where
  v := Vector.replicate 16 0
  i := 0
  pc := 0x200
  stack := Vector.replicate 16 0
  sp := 0
  dt := 0
  st := 0
  disp := Vector.replicate 32 (Vector.replicate 64 false)
  mem := []
  status := .running
  cause := .none
  cfg := { endAddr := 0x200, shiftQuirk := .fixed, vwrap := true, fontBase := 0 }
  inputs := []
  inputNo := 0

end Sys2Proof.Machine
end

