-- ==== Sys2Proof/Machine/Ops.lean ====
section
/-!
DEFINITION. The named operations over memory, registers, stack, timers and the program counter; the
fetch; and the one shared operation that takes a halt, with the reset that leaves it.
-/

namespace Sys2Proof.Machine

/-! ### Memory (20_memory.md) -/

/-- The conventional hexadecimal font, the recommended `FONT_DATA` (R66; PRESUMED by the spec itself,
93_implementation_defined.md G1; log 3). -/
def fontData : List Byte :=
  [0xF0, 0x90, 0x90, 0x90, 0xF0, 0x20, 0x60, 0x20, 0x20, 0x70, 0xF0, 0x10, 0xF0, 0x80, 0xF0,
    0xF0, 0x10, 0xF0, 0x10, 0xF0, 0x90, 0x90, 0xF0, 0x10, 0x10, 0xF0, 0x80, 0xF0, 0x10, 0xF0,
    0xF0, 0x80, 0xF0, 0x90, 0xF0, 0xF0, 0x10, 0x20, 0x40, 0x40]
  ++ [0xF0, 0x90, 0xF0, 0x90, 0xF0, 0xF0, 0x90, 0xF0, 0x10, 0xF0, 0xF0, 0x90, 0xF0, 0x90, 0x90,
    0xE0, 0x90, 0xE0, 0x90, 0xE0, 0xF0, 0x80, 0x80, 0x80, 0xF0, 0xE0, 0x90, 0x90, 0x90, 0xE0,
    0xF0, 0x80, 0xF0, 0x80, 0xF0, 0xF0, 0x80, 0xF0, 0x80, 0x80]

/-- What an unlisted address reads as: the recommended launch image, the font at the recommended
`FONT_BASE` 0x000 and 0x00 everywhere else (R66, R356; DESIGN CHOICE, log 3). -/
def Memory.background (a : Nat) : Byte :=
  if a < 80 then fontData.getD a 0 else 0

/-- The byte held at an address (R70). Every instruction checks the bound of R72 first, so an address
above 0xFFF is never read. -/
def Memory.read : Memory → Nat → Byte
  | [], a => Memory.background a
  | (b, v) :: m, a => if a = b then v else Memory.read m a

/-- Put a cell into its place in a list of rising addresses. -/
def Memory.insert : Memory → Nat → Byte → Memory
  | [], a, v => [(a, v)]
  | (b, w) :: m, a, v => if a < b then (a, v) :: (b, w) :: m else (b, w) :: Memory.insert m a v

/-- Forget the cell at an address. -/
def Memory.erase (m : Memory) (a : Nat) : Memory := m.filter fun c => c.1 != a

/-- Store a byte (R71), keeping the canonical form: a byte equal to the background is not listed. An
address above 0xFFF stores nothing; every instruction checks the bound of R72 first (log 12). -/
def Memory.write (m : Memory) (a : Nat) (v : Byte) : Memory :=
  if 4096 ≤ a then m
  else if v = Memory.background a then m.erase a
  else (m.erase a).insert a v

/-- Store bytes at ascending addresses (R69). -/
def Memory.writeBytes : Memory → Nat → List Byte → Memory
  | m, _, [] => m
  | m, a, b :: bs => Memory.writeBytes (m.write a b) (a + 1) bs

/-- The canonical form from an address on: addresses strictly rising and below 4096, no cell equal to
the background. -/
def Memory.wfFrom : Nat → Memory → Bool
  | _, [] => true
  | lo, (a, v) :: m =>
    decide (lo ≤ a) && decide (a < 4096) && decide (v ≠ Memory.background a)
      && Memory.wfFrom (a + 1) m

/-- The canonical form of a memory (log 3). -/
def Memory.wf (m : Memory) : Bool := Memory.wfFrom 0 m

/-- `MemRead(addr, 1)` (R70). -/
def State.readByte (s : State) (a : Nat) : Byte := s.mem.read a

/-- `MemWrite` of a run of bytes at ascending addresses (R69, R71). -/
def State.writeBytes (s : State) (a : Nat) (bs : List Byte) : State :=
  { s with mem := s.mem.writeBytes a bs }

/-- The bound of data accesses: does a run of `len` bytes at `a` reach above 0xFFF (R72)? An empty run
touches no address. -/
def outOfRange (a len : Nat) : Bool := decide (0 < len) && decide (0xFFF < a + (len - 1))

/-! ### Registers -/

/-- `V[r]` (R20). -/
def State.readV (s : State) (r : RegIx) : Byte := s.v[r.toNat]'(r.isLt)

/-- `V[r] <- b` (R20). -/
def State.writeV (s : State) (r : RegIx) (b : Byte) : State :=
  { s with v := s.v.set r.toNat b r.isLt }

/-- `I <- a` (R22). -/
def State.writeI (s : State) (a : Word) : State := { s with i := a }

/-- `PC <- a`, the target not checked (R186). -/
def State.setPc (s : State) (a : Word) : State := { s with pc := a }

/-- "advance PC by 2" at fetch, and "by 2 more" in a skip (R123, R170). -/
def State.advancePc (s : State) : State := { s with pc := s.pc + 2 }

/-- `PC <- PC - 2`: back to the instruction itself (R282). -/
def State.retreatPc (s : State) : State := { s with pc := s.pc - 2 }

/-- Advance `PC` by 2 more if the condition holds (R170). -/
def State.skipIf (s : State) (c : Bool) : State := if c then s.advancePc else s

/-- `DT <- b` (R286). -/
def State.writeDt (s : State) (b : Byte) : State := { s with dt := b }

/-- `ST <- b` (R288). -/
def State.writeSt (s : State) (b : Byte) : State := { s with st := b }

/-- `D` replaced as a whole. -/
def State.writeDisp (s : State) (d : Display) : State := { s with disp := d }

/-- `V[i] <- MemRead(a + i, 1)` for `i` from 0 to `x`, the other registers kept (R256). -/
def State.loadBlock (s : State) (a : Nat) (x : RegIx) : State :=
  { s with v := s.v.mapIdx fun k old => if k ≤ x.toNat then s.readByte (a + k) else old }

/-! ### The display (10_state.md R28) -/

/-- `D[y][x]`. -/
def Display.get (d : Display) (y : Fin 32) (x : Fin 64) : Bool := d[y][x]

/-- `D[y][x] <- D[y][x] ^ 1`. -/
def Display.flip (d : Display) (y : Fin 32) (x : Fin 64) : Display :=
  d.set y (d[y].set x (!d[y][x]))

/-- All 2048 pixels 0 (R150). -/
def Display.blank : Display := Vector.replicate 32 (Vector.replicate 64 false)

/-! ### The call stack (10_state.md R24, R25) -/

/-- `STACK[SP] <- a; SP <- SP + 1`, for `SP < 16`. -/
def State.push (s : State) (a : Word) (h : s.sp.val < 16) : State :=
  { s with stack := s.stack.set s.sp.val a h, sp := ⟨s.sp.val + 1, by omega⟩ }

/-- `SP <- SP - 1`, for `SP > 0`; the entry stays in `STACK`, dead (R24). -/
def State.pop (s : State) : State :=
  { s with sp := ⟨s.sp.val - 1, by omega⟩ }

/-- `STACK[SP - 1]`, the top of the stack, for `SP > 0`. -/
def State.top (s : State) (h : 0 < s.sp.val) : Word := s.stack[s.sp.val - 1]'(by omega)

/-! ### The timers (60_exceptions.md R322) -/

/-- A counter decremented by 1 if it is nonzero. -/
def tickCounter (t : Byte) : Byte := if t ≠ 0 then t - 1 else t

/-- The tick of both timers. -/
def State.tick (s : State) : State := { s with dt := tickCounter s.dt, st := tickCounter s.st }

/-! ### Taking a halt, and leaving it (60_exceptions.md R310, R312) -/

/-- The one transition into `HALTED` (R310): "writes `STATUS <- HALTED` and `CAUSE <- code` and nothing
else". -/
def State.halt (s : State) (c : Cause) : State := { s with status := .halted, cause := c }

/-- `raise <Fault>` (R310): the step ends in the halted state, which is a next state (log 4). -/
def raise (c : Cause) (s : State) : Result := .next (s.halt c)

/-- `rst`, the only way out of `HALTED` (R312, R352): every register takes its reset value and memory
keeps what it holds (R41, R350). The configuration inputs and the input schedule are not registers
and stay (log 10). -/
def State.rst (s : State) : State :=
  { State.reset with mem := s.mem, cfg := s.cfg, inputs := s.inputs, inputNo := s.inputNo }

/-! ### The fetch (40_engine.md R121 to R123) -/

/-- The tests before a fetch, in their order: end of program, bound, alignment (R121, R122). -/
def State.preFetchHalt (s : State) : Option Cause :=
  if s.pc = s.cfg.endAddr then some .endReached
  else if 0x0FFF ≤ s.pc.toNat then some .fetchOutOfBounds
  else if s.pc.toNat % 2 = 1 then some .pcMisaligned
  else none

/-- The word at `PC`: "the two bytes at `[PC, PC+1]` big-endian" (R67, R123). -/
def State.fetchWord (s : State) : Word :=
  wordOfBytes (s.readByte s.pc.toNat) (s.readByte (s.pc.toNat + 1))

/-- The state after fetch and tick, before classify: `PC` advanced, both timers ticked (R123, R125). -/
def State.fetched (s : State) : State := s.advancePc.tick

/-- The step's input has been taken; the next step takes the next one (log 1). -/
def State.consumeInput (s : State) : State :=
  { s with inputs := s.inputs.tail, inputNo := s.inputNo + 1 }

/-- The state with its next input scheduled: `step(cfg, s, keys, rnd)` of R120 is `step` of this state. -/
def State.withInput (s : State) (inp : StepInput) : State := { s with inputs := inp :: s.inputs }

/-- The end of a step that executed an instruction. -/
def endOfStep : Result → Result
  | .next s => .next s.consumeInput
  | .fault r => .fault r
  | .refused r => .refused r

end Sys2Proof.Machine
end

