-- ==== Sys2Proof/Machine/Operands.lean ====
section
/-!
DEFINITION. The operand forms (30_encoding.md R93): immediates widened with zeros, the addresses
formed from `I`, the per-step inputs, and the values an instruction forms from a latched register
before it writes anything (40_engine.md R128).
-/

namespace Sys2Proof.Machine

/-- `zext_16(nnn)` (R93). -/
def zextAddr (nnn : Addr) : Word := nnn.setWidth 16

/-- `zext_16` of a byte (R93). -/
def zextByte (b : Byte) : Word := b.setWidth 16

/-- The address `I + k` on unbounded integers (R240). -/
def State.dataAddr (s : State) (k : Nat) : Nat := s.i.toNat + k

/-- The step's sample of the Input Latch: the schedule's, or a free value where there is none (R44;
log 1). -/
def State.keys (s : State) : BitVec 16 :=
  match s.inputs with
  | inp :: _ => inp.keys
  | [] => Config.freeKeys s.inputNo

/-- The step's random byte: the schedule's, or a free value where there is none (R45; log 1). -/
def State.rnd (s : State) : Byte :=
  match s.inputs with
  | inp :: _ => inp.rnd
  | [] => Config.freeRnd s.inputNo

/-- Bit `k` of the sample (R44). -/
def State.keyDown (s : State) (k : Nat) : Bool := s.keys.getLsbD k

/-- The least pressed key, if any is pressed (R282). -/
def lowestKey (keys : BitVec 16) : Option Nat := (List.range 16).find? fun k => keys.getLsbD k

/-- The source of a shift: `Vx` in `FIXED` mode, `Vy` in `CLASSIC` mode (R220, R224). -/
def State.shiftSource (s : State) (x y : RegIx) : Byte :=
  match s.cfg.shiftQuirk with
  | .fixed => s.readV x
  | .classic => s.readV y

/-- `FONT_BASE + 5 * d` (R246). -/
def State.glyphAddr (s : State) (d : Byte) : Word :=
  BitVec.ofNat 16 (s.cfg.fontBase.toNat + 5 * d.toNat)

/-- The three decimal digits of a byte: hundreds, tens, ones (R248). -/
def bcdDigits (b : Byte) : List Byte :=
  [BitVec.ofNat 8 (b.toNat / 100), BitVec.ofNat 8 (b.toNat / 10 % 10),
    BitVec.ofNat 8 (b.toNat % 10)]

/-- `V[0], ..., V[x]` (R252). -/
def State.regBlock (s : State) (x : RegIx) : List Byte :=
  (List.range (x.toNat + 1)).map fun k => s.readV (BitVec.ofNat 4 k)

end Sys2Proof.Machine
end

