-- ==== Sys2Proof/Machine/Flags.lean ====
section
/-!
DEFINITION. The exact results and flags of the ALU (43_load_alu.md R200, R201) and the order of the
two writes (R203).
-/

namespace Sys2Proof.Machine

/-- A result and the flag it sets. -/
structure AluOut where
  flag : Bool
  result : Byte
  deriving DecidableEq, Repr

/-- "Every flag value written is 0 or 1" (R21). -/
def flagByte (f : Bool) : Byte := if f then 1 else 0

/-- `a + b`: the flag is the carry out of bit 7 (R201, R216). -/
def aluAdd (a b : Byte) : AluOut :=
  ⟨decide (255 < a.toNat + b.toNat), BitVec.ofNat 8 ((a.toNat + b.toNat) % 256)⟩

/-- `a - b`: the flag is 1 when there is no borrow, equality included (R201, R218, R222). -/
def aluSub (a b : Byte) : AluOut :=
  ⟨decide (b.toNat ≤ a.toNat), BitVec.ofNat 8 ((a.toNat + 256 - b.toNat) % 256)⟩

/-- `s >> 1`: the flag is bit 0 (R201, R220). -/
def aluShiftRight (a : Byte) : AluOut := ⟨a.getLsbD 0, BitVec.ofNat 8 (a.toNat / 2)⟩

/-- `s << 1`: the flag is bit 7 (R201, R224). -/
def aluShiftLeft (a : Byte) : AluOut := ⟨a.getLsbD 7, BitVec.ofNat 8 (2 * a.toNat % 256)⟩

/-- First `VF <- flag`, then `Vx <- result`: with `x = F` the result stays (R203). -/
def State.writeFlagged (s : State) (x : RegIx) (o : AluOut) : State :=
  (s.writeV 0xF (flagByte o.flag)).writeV x o.result

end Sys2Proof.Machine
end

