-- ==== Sys2Proof/Machine/ControlFlow.lean ====
section
/-!
DEFINITION. The control-transfer instructions (42_control_flow.md R170 to R186). `PC` is already past
the instruction when they run (R170).
-/

namespace Sys2Proof.Machine

/-- 00EE `return` (R172): "pop stack into PC". -/
def execReturn (s : State) : Result :=
  if h : 0 < s.sp.val then .next (s.pop.setPc (s.top h)) else raise .stackUnderflow s

/-- 1nnn `jump nnn` (R174): "PC := nnn". -/
def execJump (nnn : Addr) (s : State) : Result := .next (s.setPc (zextAddr nnn))

/-- 2nnn `call nnn` (R176): "push current PC onto stack, then PC := nnn". -/
def execCall (nnn : Addr) (s : State) : Result :=
  if h : s.sp.val < 16 then .next ((s.push s.pc h).setPc (zextAddr nnn))
  else raise .stackOverflow s

/-- 3xkk `skip-eq-imm Vx, kk` (R178). -/
def execSkipEqImm (x : RegIx) (kk : Byte) (s : State) : Result :=
  .next (s.skipIf (s.readV x == kk))

/-- 4xkk `skip-ne-imm Vx, kk` (R180). -/
def execSkipNeImm (x : RegIx) (kk : Byte) (s : State) : Result :=
  .next (s.skipIf (s.readV x != kk))

/-- 5xy0 `skip-eq-reg Vx, Vy` (R182). -/
def execSkipEqReg (x y : RegIx) (s : State) : Result :=
  .next (s.skipIf (s.readV x == s.readV y))

/-- 9xy0 `skip-ne-reg Vx, Vy` (R183). -/
def execSkipNeReg (x y : RegIx) (s : State) : Result :=
  .next (s.skipIf (s.readV x != s.readV y))

/-- Bnnn `jump-offset nnn` (R184): "PC := nnn + V0", at 16 bits. -/
def execJumpOffset (nnn : Addr) (s : State) : Result :=
  .next (s.setPc (zextAddr nnn + zextByte (s.readV 0)))

end Sys2Proof.Machine
end

