-- ==== Sys2Proof/Machine/Display.lean ====
section
/-!
DEFINITION. The display instructions, the write controller and the collision detector
(41_display.md R150 to R160).
-/

namespace Sys2Proof.Machine

/-- The display while a sprite is drawn, and whether a set pixel has been turned off so far. -/
structure Canvas where
  disp : Display
  collision : Bool
  deriving DecidableEq, Repr

/-- XOR one set sprite bit onto its pixel and detect the collision (R156). -/
def Canvas.plot (c : Canvas) (yy : Fin 32) (xx : Fin 64) : Canvas :=
  ⟨c.disp.flip yy xx, c.collision || c.disp.get yy xx⟩

/-- Sprite column `k` of a row: bit `7 - k` of the byte, on screen column `(x0 + k) mod 64` (R153,
R154). -/
def Canvas.plotBit (row : Byte) (yy : Fin 32) (x0 : Nat) (c : Canvas) (k : Nat) : Canvas :=
  if row.getLsbD (7 - k) then c.plot yy (Fin.ofNat 64 (x0 + k)) else c

/-- The eight columns of a sprite row, left to right (R152). -/
def Canvas.plotRow (row : Byte) (yy : Fin 32) (x0 : Nat) (c : Canvas) : Canvas :=
  (List.range 8).foldl (Canvas.plotBit row yy x0) c

/-- The screen row of sprite row aimed at `yy`: wrapped or dropped below row 31 (R155). -/
def screenRow (vwrap : Bool) (yy : Nat) : Option (Fin 32) :=
  if h : yy < 32 then some ⟨yy, h⟩
  else if vwrap then some (Fin.ofNat 32 (yy - 32))
  else none

/-- Sprite row `r`, byte `I + r` (R152). -/
def State.plotSpriteRow (s : State) (x0 y0 : Nat) (c : Canvas) (r : Nat) : Canvas :=
  match screenRow s.cfg.vwrap (y0 + r) with
  | some yy => c.plotRow (s.readByte (s.dataAddr r)) yy x0
  | none => c

/-- The whole sprite of `n` rows, top to bottom, from start column `Vx mod 64` and start row
`Vy mod 32` (R152, R153, R155). The collision flag begins at 0 and is only ever set (R156). -/
def State.sprite (s : State) (x y : RegIx) (n : Nat) : Canvas :=
  (List.range n).foldl
    (s.plotSpriteRow ((s.readV x).toNat % 64) ((s.readV y).toNat % 32)) ⟨s.disp, false⟩

/-- 00E0 `clear` (R150): "zero the display buffer". -/
def execClear (s : State) : Result := .next (s.writeDisp Display.blank)

/-- Dxyn `draw Vx, Vy, n` (R152 to R158). -/
def execDraw (x y : RegIx) (n : BitVec 4) (s : State) : Result :=
  if outOfRange (s.dataAddr 0) n.toNat then raise .addressOutOfRange s
  else .next ((s.writeDisp (s.sprite x y n.toNat).disp).writeV 0xF
    (flagByte (s.sprite x y n.toNat).collision))

end Sys2Proof.Machine
end

