-- ==== Sys2Proof/Machine/IndexMemory.lean ====
section
/-!
DEFINITION. Address-register and memory instructions (44_index_memory.md R240 to R256). The bound of
20_memory.md R72 is tested on the whole range before any effect.
-/

namespace Sys2Proof.Machine

/-- Annn `load-addr nnn` (R242): "I := nnn". -/
def execLoadAddr (nnn : Addr) (s : State) : Result := .next (s.writeI (zextAddr nnn))

/-- Fx1E `add-addr Vx` (R244): "I := I + Vx", modulo 65536, no flag. -/
def execAddAddr (x : RegIx) (s : State) : Result := .next (s.writeI (s.i + zextByte (s.readV x)))

/-- Fx29 `sprite-addr Vx` (R246): the address of the glyph of digit `Vx`. -/
def execSpriteAddr (x : RegIx) (s : State) : Result :=
  if 0x0F < (s.readV x).toNat then raise .fontIndexOutOfRange s
  else .next (s.writeI (s.glyphAddr (s.readV x)))

/-- Fx33 `bcd Vx` (R248): the three decimal digits of `Vx` to `I`, `I+1`, `I+2`. -/
def execBcd (x : RegIx) (s : State) : Result :=
  if outOfRange (s.dataAddr 0) 3 then raise .addressOutOfRange s
  else .next (s.writeBytes (s.dataAddr 0) (bcdDigits (s.readV x)))

/-- Fx55 `store-regs Vx` (R252): "copy V0..Vx inclusive into mem[I..I+x]". -/
def execStoreRegs (x : RegIx) (s : State) : Result :=
  if outOfRange (s.dataAddr 0) (x.toNat + 1) then raise .addressOutOfRange s
  else .next (s.writeBytes (s.dataAddr 0) (s.regBlock x))

/-- Fx65 `load-regs Vx` (R256): "copy mem[I..I+x] into V0..Vx inclusive". -/
def execLoadRegs (x : RegIx) (s : State) : Result :=
  if outOfRange (s.dataAddr 0) (x.toNat + 1) then raise .addressOutOfRange s
  else .next (s.loadBlock (s.dataAddr 0) x)

end Sys2Proof.Machine
end

