-- ==== Sys2Proof/Machine/KeysTimers.lean ====
section
/-!
DEFINITION. Key and timer instructions (45_keys_timers.md R270 to R288). `DT` is read after the tick
of the step (R270).
-/

namespace Sys2Proof.Machine

/-- Ex9E `skip-key-down Vx` (R272). The whole byte `Vx` is tested, not its low nibble. -/
def execSkipKeyDown (x : RegIx) (s : State) : Result :=
  if 0x0F < (s.readV x).toNat then raise .keyIndexOutOfRange s
  else .next (s.skipIf (s.keyDown (s.readV x).toNat))

/-- ExA1 `skip-key-up Vx` (R274). -/
def execSkipKeyUp (x : RegIx) (s : State) : Result :=
  if 0x0F < (s.readV x).toNat then raise .keyIndexOutOfRange s
  else .next (s.skipIf (!s.keyDown (s.readV x).toNat))

/-- Fx07 `read-delay Vx` (R276): "Vx := delay timer". -/
def execReadDelay (x : RegIx) (s : State) : Result := .next (s.writeV x s.dt)

/-- Fx0A `wait-key Vx` (R282): with no key pressed, back to the instruction itself; else the least
pressed key. -/
def execWaitKey (x : RegIx) (s : State) : Result :=
  .next (match lowestKey s.keys with
    | none => s.retreatPc
    | some k => s.writeV x (BitVec.ofNat 8 k))

/-- Fx15 `set-delay Vx` (R286): "delay timer := Vx", over the ticked value. -/
def execSetDelay (x : RegIx) (s : State) : Result := .next (s.writeDt (s.readV x))

/-- Fx18 `set-sound Vx` (R288): "sound timer := Vx". -/
def execSetSound (x : RegIx) (s : State) : Result := .next (s.writeSt (s.readV x))

end Sys2Proof.Machine
end

