-- ==== Sys2Proof/Machine/LoadAlu.lean ====
section
/-!
DEFINITION. Load-immediate, ALU and random instructions (43_load_alu.md R200 to R228). Every operand
is read from the state before any write (40_engine.md R128).
-/

namespace Sys2Proof.Machine

/-- 6xkk `load-imm Vx, kk` (R204): "Vx := kk". -/
def execLoadImm (x : RegIx) (kk : Byte) (s : State) : Result := .next (s.writeV x kk)

/-- 7xkk `add-imm Vx, kk` (R206): "Vx := Vx + kk (wrapping, no flag)". -/
def execAddImm (x : RegIx) (kk : Byte) (s : State) : Result :=
  .next (s.writeV x (aluAdd (s.readV x) kk).result)

/-- 8xy0 `move Vx, Vy` (R208): "Vx := Vy". -/
def execMove (x y : RegIx) (s : State) : Result := .next (s.writeV x (s.readV y))

/-- 8xy1 `or Vx, Vy` (R210); `VF` is not a flag here. -/
def execOr (x y : RegIx) (s : State) : Result := .next (s.writeV x (s.readV x ||| s.readV y))

/-- 8xy2 `and Vx, Vy` (R212). -/
def execAnd (x y : RegIx) (s : State) : Result := .next (s.writeV x (s.readV x &&& s.readV y))

/-- 8xy3 `xor Vx, Vy` (R214). -/
def execXor (x y : RegIx) (s : State) : Result := .next (s.writeV x (s.readV x ^^^ s.readV y))

/-- 8xy4 `add Vx, Vy` (R216): `VF` is the carry. -/
def execAdd (x y : RegIx) (s : State) : Result :=
  .next (s.writeFlagged x (aluAdd (s.readV x) (s.readV y)))

/-- 8xy5 `sub Vx, Vy` (R218): `VF` is 1 when there is no borrow. -/
def execSub (x y : RegIx) (s : State) : Result :=
  .next (s.writeFlagged x (aluSub (s.readV x) (s.readV y)))

/-- 8xy6 `shift-right Vx, Vy` (R220): `VF` is the bit shifted out. -/
def execShiftRight (x y : RegIx) (s : State) : Result :=
  .next (s.writeFlagged x (aluShiftRight (s.shiftSource x y)))

/-- 8xy7 `subn Vx, Vy` (R222): "Vx := Vy - Vx(before)". -/
def execSubn (x y : RegIx) (s : State) : Result :=
  .next (s.writeFlagged x (aluSub (s.readV y) (s.readV x)))

/-- 8xyE `shift-left Vx, Vy` (R224): `VF` is the bit shifted out. -/
def execShiftLeft (x y : RegIx) (s : State) : Result :=
  .next (s.writeFlagged x (aluShiftLeft (s.shiftSource x y)))

/-- Cxkk `random Vx, kk` (R226): "Vx := random-byte & kk". -/
def execRandom (x : RegIx) (kk : Byte) (s : State) : Result := .next (s.writeV x (s.rnd &&& kk))

end Sys2Proof.Machine
end

