-- ==== Sys2Proof/Machine/Step.lean ====
section
/-!
DEFINITION. One step of the engine (40_engine.md R120), and the placing of one instruction where the
next step fetches.
-/

namespace Sys2Proof.Machine

/-- Classify and execute a fetched word in the state after fetch and tick (R126, R127). -/
def executeWord (w : Word) (s : State) : Result :=
  match decodeWord w with
  | .ok i => endOfStep (exec i s)
  | .error _ => raise .undefinedInstruction s

/-- One step (R120): phase 0, the halt check and fetch checks, the fetch, the tick, classify, execute.
The phases are the operations of Machine/Ops.lean. -/
def step (s : State) : Host.Outcome State Fault Refusal :=
  match s.status with
  | .halted => .next s
  | .running =>
    match s.preFetchHalt with
    | some c => raise c s
    | none => executeWord s.fetchWord s.fetched

/-- The state with a one-instruction program at `PC`: the two bytes of the table word, and an
`END_ADDR` other than `PC`, which an empty program has and the fetch does not allow (R121 (a)); it
stands for the host's load of that program (log 5). -/
def State.withFetchWord (s : State) (nbits w : Nat) : State :=
  let word : Word := BitVec.ofNat 16 (w % 2 ^ nbits)
  { s with
    mem := s.mem.writeBytes s.pc.toNat [highByte word, lowByte word]
    cfg := { s.cfg with endAddr := if s.cfg.endAddr = s.pc then s.pc + 2 else s.cfg.endAddr } }

end Sys2Proof.Machine
end

