-- ==== Sys2Proof/Asm.lean ====
section
/-!
DEFINITION. The text form of an instruction (30_encoding.md R106). It has no effect on the machine;
the number of hexadecimal digits printed is a DESIGN CHOICE (log 14).
-/

namespace Sys2Proof

/-- One hexadecimal digit. -/
def hexDigit (d : Nat) : String :=
  (["0", "1", "2", "3", "4", "5", "6", "7", "8", "9", "A", "B", "C", "D", "E", "F"]).getD d "?"

/-- A register's name, `V0` to `VF` (R106). -/
def asmReg (r : RegIx) : String := "V" ++ hexDigit r.toNat

/-- An immediate byte, two hexadecimal digits. -/
def asmByte (b : Byte) : String := hexDigit (b.toNat / 16) ++ hexDigit (b.toNat % 16)

/-- A 12-bit address, three hexadecimal digits. -/
def asmAddr (a : Addr) : String :=
  hexDigit (a.toNat / 256) ++ hexDigit (a.toNat / 16 % 16) ++ hexDigit (a.toNat % 16)

/-- The operands of an instruction in text, destination first, separated by commas (R106). -/
def Instr.operandText : Instr → String
  | .clear => ""
  | .ret => ""
  | .jump nnn => " " ++ asmAddr nnn
  | .call nnn => " " ++ asmAddr nnn
  | .skipEqImm x kk => " " ++ asmReg x ++ ", " ++ asmByte kk
  | .skipNeImm x kk => " " ++ asmReg x ++ ", " ++ asmByte kk
  | .skipEqReg x y => " " ++ asmReg x ++ ", " ++ asmReg y
  | .loadImm x kk => " " ++ asmReg x ++ ", " ++ asmByte kk
  | .addImm x kk => " " ++ asmReg x ++ ", " ++ asmByte kk
  | .move x y => " " ++ asmReg x ++ ", " ++ asmReg y
  | .or x y => " " ++ asmReg x ++ ", " ++ asmReg y
  | .and x y => " " ++ asmReg x ++ ", " ++ asmReg y
  | .xor x y => " " ++ asmReg x ++ ", " ++ asmReg y
  | .add x y => " " ++ asmReg x ++ ", " ++ asmReg y
  | .sub x y => " " ++ asmReg x ++ ", " ++ asmReg y
  | .shiftRight x y => " " ++ asmReg x ++ ", " ++ asmReg y
  | .subn x y => " " ++ asmReg x ++ ", " ++ asmReg y
  | .shiftLeft x y => " " ++ asmReg x ++ ", " ++ asmReg y
  | .skipNeReg x y => " " ++ asmReg x ++ ", " ++ asmReg y
  | .loadAddr nnn => " " ++ asmAddr nnn
  | .jumpOffset nnn => " " ++ asmAddr nnn
  | .random x kk => " " ++ asmReg x ++ ", " ++ asmByte kk
  | .draw x y n => " " ++ asmReg x ++ ", " ++ asmReg y ++ ", " ++ hexDigit n.toNat
  | .skipKeyDown x => " " ++ asmReg x
  | .skipKeyUp x => " " ++ asmReg x
  | .readDelay x => " " ++ asmReg x
  | .waitKey x => " " ++ asmReg x
  | .setDelay x => " " ++ asmReg x
  | .setSound x => " " ++ asmReg x
  | .addAddr x => " " ++ asmReg x
  | .spriteAddr x => " " ++ asmReg x
  | .bcd x => " " ++ asmReg x
  | .storeRegs x => " " ++ asmReg x
  | .loadRegs x => " " ++ asmReg x

/-- The line of text of an instruction: its mnemonic and its operands (R106). -/
def Instr.asm (i : Instr) : String := i.row.mnemonic ++ i.operandText

end Sys2Proof
end

