-- ==== Sys2Proof/Machine/Launch.lean ====
section
/-!
DEFINITION. What the host does before the first step, as one operation: the launch procedure
(70_reset_and_hazards.md R354, R356). It is no step. Block.lean has it as the host's single moves.
-/

namespace Sys2Proof.Machine

/-- The configuration a launch presents, `END_ADDR` being "the address immediately following the last
byte written" (R354 (3), (4)). For a launch that fits it is at most 0x1000 (`launchConfig_wellFormed`), and
no other launch presents it. -/
def launchConfig (l : LaunchPlan) : Config where
  endAddr := BitVec.ofNat 16 (0x200 + l.program.length)
  shiftQuirk := l.shiftQuirk
  vwrap := l.vwrap
  fontBase := l.fontBase

/-- The launch (R354): assert `rst`, write the font, write the program from 0x200 on, present the
configuration with the loader's `END_ADDR`. A font outside the reserved region is refused
(93_implementation_defined.md U14, U17), an image too long is a load failure (R354 (3)). Bytes the host
does not write stay as they were (R350, R356). -/
def State.launch (s : State) (l : LaunchPlan) : Result :=
  if !l.fontFits then .refused .invalidConfiguration
  else if !l.programFits then .fault .loadFailure
  else
    let loaded := (s.rst.writeBytes l.fontBase.toNat l.fontData.toList).writeBytes 0x200 l.program
    .next { loaded with cfg := launchConfig l }

end Sys2Proof.Machine
end

