-- ==== Sys2Proof/Machine/Block.lean ====
section
/-!
DEFINITION. The block with its input `rst`, and every move the host has on it (10_state.md R41, R42,
R47): what R47 forbids is no move. Reading an output is no move: it changes nothing (Outputs.lean).
-/

namespace Sys2Proof.Machine

/-- The CORE and the level of its input `rst` (R41; log 15). While `rst` is asserted `state` holds the
reset values and what the host has loaded. -/
structure Block where
  state : State
  rst : Bool
  deriving DecidableEq, Repr

/-- What a host can try (R41, R42, R47, R352, R354). -/
inductive HostMove where
  /-- Assert `rst`. -/
  | assertRst
  /-- Write a byte of `MEM` through the load port: `ld_we`, `ld_addr`, `ld_data`. -/
  | load (a : Addr) (b : Byte)
  /-- Present the configuration inputs. -/
  | configure (c : Config)
  /-- Release `rst`. -/
  | releaseRst
  /-- Assert `step` with this sample of `keys` and `rnd`. -/
  | step (inp : StepInput)
  deriving DecidableEq, Repr

/-- The load port, "usable only while `rst` is asserted" (R40, R41, R47). -/
def Block.loadPort (b : Block) (a : Addr) (v : Byte) : Option Block :=
  if b.rst then some ⟨b.state.rst.writeBytes a.toNat [v], true⟩ else none

/-- The configuration inputs, "stable from the release of `rst` until the next `rst`" (R43, R47). -/
def Block.configure (b : Block) (c : Config) : Option Block :=
  if b.rst then some ⟨{ b.state.rst with cfg := c }, true⟩ else none

/-- The release of `rst` into the launch state; a CORE whose configuration is not legal is never
released (R41, R356 (a), 93_implementation_defined.md U17). -/
def Block.release (b : Block) : Option Block :=
  if b.rst && b.state.cfg.wellFormed then some ⟨b.state.rst, false⟩ else none

/-- One assertion of `step` while `rst` is released (R41, R42). The sample is this step's alone, and
the state's own schedule stays as the step leaves it without the sample (log 15). -/
def Block.stepWith (b : Block) (inp : StepInput) : Option Block :=
  if b.rst then none
  else
    match Sys2Proof.Machine.step (b.state.withInput inp) with
    | .next t => some ⟨{ t with inputs := b.state.inputs }, false⟩
    | .fault _ => none
    | .refused _ => none

/-- The block after a move, or none where the host has no such move (R47). `rst` may be asserted at
any time (R352). -/
def Block.move (b : Block) : HostMove → Option Block
  | .assertRst => some ⟨b.state.rst, true⟩
  | .load a v => b.loadPort a v
  | .configure c => b.configure c
  | .releaseRst => b.release
  | .step inp => b.stepWith inp

/-- Moves one after another. -/
def Block.moves : List HostMove → Block → Option Block
  | [], b => some b
  | m :: ms, b => (b.move m).bind (Block.moves ms)

/-- The loads of bytes at ascending addresses (R354 (2), (3)). -/
def loadMoves : Nat → List Byte → List HostMove
  | _, [] => []
  | a, v :: vs => .load (BitVec.ofNat 12 a) v :: loadMoves (a + 1) vs

/-- The moves (1) to (5) of R354, in their order. Of a launch that does not fit only (1) is made: a load
failure is "surfaced before execution starts", and "the CORE is never released from reset" (R354 (3);
log 6). -/
def launchMoves (l : LaunchPlan) : List HostMove :=
  .assertRst ::
    if l.fits then
      loadMoves l.fontBase.toNat l.fontData.toList ++
        (loadMoves 0x200 l.program ++ [.configure (launchConfig l), .releaseRst])
    else []

end Sys2Proof.Machine
end

