-- ==== Sys2Proof/Machine/Outputs.lean ====
section
/-!
DEFINITION. The outputs of the block (10_state.md R46) and the step with its outputs (R40, R42).
-/

namespace Sys2Proof.Machine

/-- `STATUS` as its bit (R29). -/
def Status.bit : Status → BitVec 1
  | .running => 0
  | .halted => 1

/-- `CAUSE` as its 4-bit code (R302). -/
def Cause.code : Cause → BitVec 4
  | .none => 0
  | .endReached => 1
  | .fetchOutOfBounds => 2
  | .pcMisaligned => 3
  | .undefinedInstruction => 4
  | .stackOverflow => 5
  | .stackUnderflow => 6
  | .addressOutOfRange => 7
  | .keyIndexOutOfRange => 8
  | .fontIndexOutOfRange => 9

/-- The output signals of R46 but for the display port. -/
structure Outputs where
  halted : Bool
  cause : BitVec 4
  st : Byte
  soundOn : Bool
  dt : Byte
  /-- The strobe: an instruction reached the end of its execute phase without a fault in this step. -/
  repaint : Bool
  deriving DecidableEq, Repr

/-- `repaint` of the step from `s` to `t` (R46): the engine ran and did not halt. Only a step that ends
its execute phase without a fault leaves a running engine running (R120; log 7). -/
def repaint (s t : State) : Bool := s.status == .running && t.status == .running

/-- The outputs after the step from `s` to `t` (R46). -/
def outputs (s t : State) : Outputs where
  halted := t.status == .halted
  cause := t.cause.code
  st := t.st
  soundOn := t.st != 0
  dt := t.dt
  repaint := repaint s t

/-- The display read port (R46): `disp_q = D[disp_y][disp_x]`. -/
def State.dispQ (s : State) (dispX : BitVec 6) (dispY : BitVec 5) : Bool :=
  s.disp.get dispY.toFin dispX.toFin

/-- One assertion of `step` with its outputs (R40, R42). -/
def stepWithOutputs (s : State) : Host.Outcome (State × Outputs) Fault Refusal :=
  match step s with
  | .next t => .next (t, outputs s t)
  | .fault r => .fault r
  | .refused r => .refused r

end Sys2Proof.Machine
end

