-- ==== Sys2Proof/Safety.lean ====
section
/-!
DEFINITION. What counts as the end of a run and as a fault, the invariant of the machine, and the
frame of an instruction: what it may change, everything else being unchanged.
-/

namespace Sys2Proof.Machine

/-- The run ended normally: "the sole expected successful termination path, not an error" (R131). -/
def State.finished (s : State) : Bool := s.status == .halted && s.cause == .endReached

/-- The run ended in a fault: a halt whose cause is not `END_REACHED` (R12, R302). -/
def State.faulted (s : State) : Bool := s.status == .halted && s.cause != .endReached

/-- A run is safe at a state that is no fault. -/
def State.safe (s : State) : Bool := !s.faulted

/-- What holds at every launch and is kept by every step. -/
structure State.Inv (s : State) : Prop where
  /-- The memory is in canonical form (log 3). -/
  mem_wf : s.mem.wf = true
  /-- The configuration is one the spec allows (R6, R356 (a)). -/
  cfg_wf : s.cfg.wellFormed = true
  /-- "the largest value any rule can produce is 0x10FE" (R23). -/
  pc_bound : s.pc.toNat ≤ 0x10FE
  /-- Live stack entries "are even and <= 0x1000" (R172). -/
  stack_live : ∀ k : Fin 16, k.val < s.sp.val →
    s.stack[k].toNat % 2 = 0 ∧ s.stack[k].toNat ≤ 0x1000
  /-- `CAUSE` is `NONE` exactly while the engine runs (R30, R302). -/
  cause_iff : s.status = .running ↔ s.cause = .none

/-- What an instruction may change. What is not named here is unchanged. -/
structure May where
  /-- The `V` registers it may write. -/
  regs : List RegIx := []
  /-- `I`. -/
  i : Bool := false
  /-- `PC`. -/
  pc : Bool := false
  /-- `SP` and `STACK`. -/
  stack : Bool := false
  /-- `DT`. -/
  dt : Bool := false
  /-- `ST`. -/
  st : Bool := false
  /-- `D`. -/
  disp : Bool := false
  /-- The addresses of memory it may store to. -/
  mem : List Nat := []

/-- From `s` to `t` nothing changed but what `m` names: every other register, every other byte of
memory, the pixels, the stack, the timers, `STATUS`, `CAUSE`, the configuration and the input
schedule. -/
structure Frame (m : May) (s t : State) : Prop where
  regs : ∀ r, r ∉ m.regs → t.readV r = s.readV r
  i : m.i = false → t.i = s.i
  pc : m.pc = false → t.pc = s.pc
  stack : m.stack = false → t.sp = s.sp ∧ ∀ k : Fin 16, t.stack[k] = s.stack[k]
  dt : m.dt = false → t.dt = s.dt
  st : m.st = false → t.st = s.st
  disp : m.disp = false → ∀ y x, t.disp.get y x = s.disp.get y x
  mem : ∀ a, a ∉ m.mem → t.readByte a = s.readByte a
  status : t.status = s.status
  cause : t.cause = s.cause
  cfg : t.cfg = s.cfg
  inputs : t.inputs = s.inputs ∧ t.inputNo = s.inputNo

/-- The engine of `s` fetches a word in its next step: it runs, and no test before the fetch halts it
(R120 phases 0 to 2, R121, R122). -/
structure State.Fetches (s : State) : Prop where
  running : s.status = .running
  notEnd : s.pc ≠ s.cfg.endAddr
  inBounds : s.pc.toNat < 0x0FFF
  even : s.pc.toNat % 2 = 0

/-- Sprite row `r`, column `c` of `draw Vx, Vy, n` is a set bit aimed at pixel `D[yy][xx]` and its row
is drawn (R152 to R155). -/
def State.SpriteBitAt (s : State) (x y : RegIx) (r c : Nat) (yy : Fin 32) (xx : Fin 64) : Prop :=
  (s.readByte (s.dataAddr r)).getLsbD (7 - c) = true ∧
  xx.val = ((s.readV x).toNat % 64 + c) % 64 ∧
  ((s.readV y).toNat % 32 + r = yy.val ∨
    (s.cfg.vwrap = true ∧ (s.readV y).toNat % 32 + r = yy.val + 32))

/-- Some set bit of the sprite of `draw Vx, Vy, n` is aimed at pixel `D[yy][xx]`. -/
def State.SpriteHits (s : State) (x y : RegIx) (n : BitVec 4) (yy : Fin 32) (xx : Fin 64) : Prop :=
  ∃ r, r < n.toNat ∧ ∃ c, c < 8 ∧ s.SpriteBitAt x y r c yy xx

end Sys2Proof.Machine
end

