-- ==== Sys2Proof/Certificates/Slice0/Obligations.lean ====
section
/-!
DEFINITION. The statements for the provers. `Frame m s t` (Safety.lean) says that from `s` to `t`
nothing changed but what `m` names; a halt is the next state written out with `status` and `cause`
replaced and nothing else (R310).
-/

open Sys2Proof Sys2Proof.Machine

/-! ### Encoding -/

/-- Words written out from the patterns of R96 decode to the instructions they stand for. -/
def Obligations.WrittenOutWordsDecode : Prop :=
  decodeWord 0x00E0 = .ok .clear ∧
  decodeWord 0x2A5C = .ok (.call 0xA5C) ∧
  decodeWord 0x6A2C = .ok (.loadImm 0xA 0x2C) ∧
  decodeWord 0x81F4 = .ok (.add 0x1 0xF) ∧
  decodeWord 0xD12F = .ok (.draw 0x1 0x2 0xF) ∧
  decodeWord 0xE7A1 = .ok (.skipKeyUp 0x7) ∧
  decodeWord 0xFC33 = .ok (.bcd 0xC)

/-- Decoding the encoding of an instruction gives the instruction back, at every operand value. -/
def Obligations.DecodeOfEncodeIsIdentity : Prop :=
  ∀ i : Instr, decodeWord (encode i) = .ok i

/-- A word that decodes to an instruction is that instruction's encoding: no two words share a
meaning, and no bit of a word is dropped (the `y` field of the shifts among them, R92). -/
def Obligations.EncodeOfDecodeIsTheWord : Prop :=
  ∀ (w : Word) (i : Instr), decodeWord w = .ok i → encode i = w

/-- The two-level decoder of R94 and the opcode map of R96 agree: a decoded word selects the
instruction's row, a row of the table; a rejected word selects no row; and no word selects two rows. -/
def Obligations.DecoderAgreesWithOpcodeMap : Prop :=
  ∀ w : Word,
    (∀ i, decodeWord w = .ok i → i.row ∈ opcodeTable ∧ i.row.selects w = true) ∧
    (∀ e, decodeWord w = .error e → ∀ row ∈ opcodeTable, row.selects w = false) ∧
    (∀ r₁ ∈ opcodeTable, ∀ r₂ ∈ opcodeTable,
      r₁.selects w = true → r₂.selects w = true → r₁ = r₂)

/-- The undefined words are exactly those R100 lists, and decoding names each of them.
That they are undefined instructions is the spec's own decision (D13, D14). -/
def Obligations.UndefinedWordsAreThoseListed : Prop :=
  ∀ w : Word,
    ((∃ e, decodeWord w = .error e) ↔
      (w.toNat / 4096 = 0 ∧ w ≠ 0x00E0 ∧ w ≠ 0x00EE) ∨
      ((w.toNat / 4096 = 5 ∨ w.toNat / 4096 = 9) ∧ w.toNat % 16 ≠ 0) ∨
      (w.toNat / 4096 = 8 ∧ w.toNat % 16 ∈ [0x8, 0x9, 0xA, 0xB, 0xC, 0xD, 0xF]) ∨
      (w.toNat / 4096 = 14 ∧ w.toNat % 256 ∉ [0x9E, 0xA1]) ∨
      (w.toNat / 4096 = 15 ∧
        w.toNat % 256 ∉ [0x07, 0x0A, 0x15, 0x18, 0x1E, 0x29, 0x33, 0x55, 0x65])) ∧
    (∀ e, decodeWord w = .error e → e = .undefinedInstruction w)

/-- Instructions are two bytes, the high byte first (R67, R90): the decoder reads one from the head of
a byte stream and leaves the rest; fewer than two bytes are no instruction. -/
def Obligations.ByteStreamDecodes : Prop :=
  (∀ (i : Instr) (rest : List Byte), decode (encodeBytes i ++ rest) = .ok (i, rest)) ∧
  (∀ (hi lo : Byte) (i : Instr) (rest : List Byte),
    decode (hi :: lo :: rest) = .ok (i, rest) → encodeBytes i = [hi, lo]) ∧
  decode [] = .error .truncated ∧ ∀ b, decode [b] = .error .truncated

/-! ### Reset and launch -/

/-- R350: `rst` in any state puts every register at its reset value and does not clear memory; the
state the model begins in has the same register values. Those of `SP`, `STACK`, `DT`, `ST`, `STATUS`,
`CAUSE` are the spec's own choice (D6). -/
def Obligations.ResetPutsEveryRegisterAtItsValue : Prop :=
  ∀ s t : State, (t = s.rst ∨ t = State.reset) →
    (∀ r, t.readV r = 0) ∧ t.i = 0 ∧ t.pc = 0x200 ∧ t.sp.val = 0 ∧
    (∀ k : Fin 16, t.stack[k] = 0) ∧ t.dt = 0 ∧ t.st = 0 ∧
    (∀ y x, t.disp.get y x = false) ∧ t.status = .running ∧ t.cause = .none ∧
    ∀ a, s.rst.readByte a = s.readByte a

/-- R354, R356: a launch whose font fits the reserved region and whose program fits memory answers the
launch state: font and program in memory, every other byte as it was, `END_ADDR` after the last program
byte, the registers reset, the configuration presented, and a legal configuration. That the
configuration stands in State is the model's choice (log 2), that a reset keeps the input schedule too
(log 10). -/
def Obligations.LaunchLoadsFontAndProgram : Prop :=
  ∀ (s : State) (l : LaunchPlan),
    l.fontBase.toNat + 80 ≤ 0x200 → l.program.length ≤ 3584 →
    ∃ t, s.launch l = .next t ∧
      (∀ k : Fin 80, t.readByte (l.fontBase.toNat + k.val) = l.fontData[k]) ∧
      (∀ k : Fin l.program.length, t.readByte (0x200 + k.val) = l.program[k]) ∧
      (∀ a, (a < l.fontBase.toNat ∨ l.fontBase.toNat + 80 ≤ a) →
        (a < 0x200 ∨ 0x200 + l.program.length ≤ a) → t.readByte a = s.readByte a) ∧
      t.cfg.endAddr.toNat = 0x200 + l.program.length ∧
      t.cfg.shiftQuirk = l.shiftQuirk ∧ t.cfg.vwrap = l.vwrap ∧ t.cfg.fontBase = l.fontBase ∧
      t.cfg.wellFormed = true ∧
      t = { State.reset with
        mem := t.mem, cfg := t.cfg, inputs := s.inputs, inputNo := s.inputNo }

/-- A font region that overlaps the program region is refused, and an image longer than 3584 bytes is a
load failure: no launched state exists (R354 (3), 93_implementation_defined.md U14, U17). The two
outcomes' form is the model's choice (log 6). -/
def Obligations.InvalidLaunchIsRejected : Prop :=
  ∀ (s : State) (l : LaunchPlan),
    (0x200 < l.fontBase.toNat + 80 → s.launch l = .refused .invalidConfiguration) ∧
    (l.fontBase.toNat + 80 ≤ 0x200 → 3584 < l.program.length →
      s.launch l = .fault .loadFailure)

/-- R47, R41: what the host can do to the block. While `rst` is released it can assert `rst`, at any time
(R352), or make the CORE perform one step with any sample of `keys` and `rnd`, and nothing else: it writes
neither `MEM` nor the configuration nor a register. While `rst` is asserted no step is performed, every
move leaves the registers at their reset values, any byte can be loaded, and a move other than that load
leaves `MEM` as it is. `rst` as data beside the state and the moves as a partial function are the model's
form (log 15). -/
def Obligations.HostHasOnlyTheAllowedMoves : Prop :=
  ∀ (b : Block) (m : HostMove),
    (b.rst = false →
      (b.move m ≠ none ↔ m = .assertRst ∨ ∃ inp, m = .step inp) ∧
      ∀ inp, ∃ t, step (b.state.withInput inp) = .next t ∧
        b.move (.step inp) = some ⟨{ t with inputs := b.state.inputs }, false⟩) ∧
    (b.rst = true →
      (∀ inp, b.move (.step inp) = none) ∧
      (∀ a v, ∃ b', b.move (.load a v) = some b' ∧ b'.rst = true ∧ ∀ c,
        b'.state.readByte c = if c = a.toNat then v else b.state.readByte c) ∧
      ∀ b', b.move m = some b' → b'.state = b'.state.rst ∧
        ((∀ a v, m ≠ .load a v) → b'.state.mem = b.state.mem) ∧
        ((∀ c, m ≠ .configure c) → b'.state.cfg = b.state.cfg)) ∧
    b.move .assertRst = some ⟨b.state.rst, true⟩

/-- R354: the launch is what the host's moves (1) to (5) do, one after another, from a block in any state;
the block is then released in the launch state. Of a launch whose font or image does not fit, however long
the image, no move releases `rst`: the block stays in reset with its registers reset, and no launched
state exists. The moves are the model's form (log 15), and that a failed launch loads nothing is its choice
(log 6). -/
def Obligations.LaunchIsTheHostsMoves : Prop :=
  ∀ (b : Block) (l : LaunchPlan),
    (l.fontBase.toNat + 80 ≤ 0x200 → l.program.length ≤ 3584 →
      ∃ t, b.state.launch l = .next t ∧ Block.moves (launchMoves l) b = some ⟨t, false⟩) ∧
    (0x200 < l.fontBase.toNat + 80 ∨ 3584 < l.program.length →
      (∀ t, b.state.launch l ≠ .next t) ∧ HostMove.releaseRst ∉ launchMoves l ∧
      Block.moves (launchMoves l) b = some ⟨b.state.rst, true⟩)

/-! ### The step -/

/-- R121, R122: the three tests before a fetch, in their order; each halts the engine with its cause
and changes nothing else. The tests by equality, their order and the halt at an odd `PC` are the spec's
own decisions (D10, D11, D12). -/
def Obligations.HaltAndFetchChecksInOrder : Prop :=
  ∀ s : State, s.status = .running →
    (s.pc = s.cfg.endAddr →
      step s = .next { s with status := .halted, cause := .endReached }) ∧
    (s.pc ≠ s.cfg.endAddr → 0x0FFF ≤ s.pc.toNat →
      step s = .next { s with status := .halted, cause := .fetchOutOfBounds }) ∧
    (s.pc ≠ s.cfg.endAddr → s.pc.toNat < 0x0FFF → s.pc.toNat % 2 = 1 →
      step s = .next { s with status := .halted, cause := .pcMisaligned })

/-- A step runs the decoded instruction: where the two bytes at `PC`, high byte first, decode to `i`,
the step is `exec i` of the state with `PC` advanced by 2 and both timers ticked, and after it the step's
input has been taken (the model's choice, log 1). -/
def Obligations.StepExecutesTheDecodedInstruction : Prop :=
  ∀ (s : State) (i : Instr), s.Fetches →
    decodeWord (s.readByte s.pc.toNat ++ s.readByte (s.pc.toNat + 1)) = .ok i →
    step s = match exec i { s with
        pc := s.pc + 2
        dt := if s.dt = 0 then 0 else s.dt - 1
        st := if s.st = 0 then 0 else s.st - 1 } with
      | .next t => .next { t with inputs := t.inputs.tail, inputNo := t.inputNo + 1 }
      | .fault r => .fault r
      | .refused r => .refused r

/-- R126: a word that matches no row of the opcode map halts the engine with `UNDEFINED_INSTRUCTION` (the
spec's own decision, D13); `PC` is already past it, the timers are already ticked, and no other state
changes. -/
def Obligations.UndefinedWordHaltsAfterTheTick : Prop :=
  ∀ s : State, s.Fetches →
    (∀ row ∈ opcodeTable,
      row.selects (s.readByte s.pc.toNat ++ s.readByte (s.pc.toNat + 1)) = false) →
    ∃ t, step s = .next t ∧ t.pc.toNat = s.pc.toNat + 2 ∧
      t.dt.toNat = s.dt.toNat - 1 ∧ t.st.toNat = s.st.toNat - 1 ∧
      t = { s with
        pc := t.pc, dt := t.dt, st := t.st, status := .halted, cause := .undefinedInstruction }

/-- The engine never stops otherwise than by halting: every step of every state answers a next state
(R300, R301; that a halt is a next state is the model's reading, log 4). -/
def Obligations.EveryStepAnswersANextState : Prop :=
  ∀ s : State, ∃ t, step s = .next t

/-- R310: halts are precise. A step that halts before the fetch (causes 1 to 3) changes `STATUS` and
`CAUSE` alone; one that halts after it (causes 4 to 9) has advanced `PC` and ticked the timers, has taken
its input unless the word is undefined, and has changed nothing else (the spec's own decision D9; the
input is the model's, log 1). -/
def Obligations.HaltsArePrecise : Prop :=
  ∀ s t : State, s.status = .running → step s = .next t → t.status = .halted →
    (t.cause ∈ [.endReached, .fetchOutOfBounds, .pcMisaligned] ∧
      t = { s with status := .halted, cause := t.cause }) ∨
    (t.cause ∈ [.undefinedInstruction, .stackOverflow, .stackUnderflow, .addressOutOfRange,
        .keyIndexOutOfRange, .fontIndexOutOfRange] ∧
      t.pc.toNat = s.pc.toNat + 2 ∧ t.dt.toNat = s.dt.toNat - 1 ∧ t.st.toNat = s.st.toNat - 1 ∧
      t = { s with
        pc := t.pc, dt := t.dt, st := t.st, status := .halted, cause := t.cause
        inputs := if t.cause = .undefinedInstruction then s.inputs else s.inputs.tail
        inputNo := if t.cause = .undefinedInstruction then s.inputNo else s.inputNo + 1 })

/-- R131: the state at the halt is final. Any number of further steps leaves it as it is
(D35). -/
def Obligations.HaltedStateIsFinal : Prop :=
  ∀ (s : State) (k : Nat), s.status = .halted → Sys2Proof.core.run k s = .next s

/-- R304 and the conditions of R302: an instruction that halts a running engine is one of nine, each
with its one cause and under its one condition, and under that condition it does halt. That these
conditions halt, and the causes, are the spec's own decisions (D8, D19, D21, D22, D32). -/
def Obligations.EachInstructionRaisesItsOneCause : Prop :=
  ∀ (i : Instr) (s t : State), s.status = .running → exec i s = .next t →
    (t.status = .halted ↔
      (i = .ret ∧ s.sp.val = 0) ∨
      (∃ nnn, i = .call nnn ∧ s.sp.val = 16) ∨
      (∃ x y n, i = .draw x y n ∧ 0 < n.toNat ∧ 0xFFF < s.i.toNat + n.toNat - 1) ∨
      (∃ x, i = .bcd x ∧ 0xFFF < s.i.toNat + 2) ∨
      (∃ x, (i = .storeRegs x ∨ i = .loadRegs x) ∧ 0xFFF < s.i.toNat + x.toNat) ∨
      (∃ x, (i = .skipKeyDown x ∨ i = .skipKeyUp x) ∧ 0x0F < (s.readV x).toNat) ∨
      (∃ x, i = .spriteAddr x ∧ 0x0F < (s.readV x).toNat)) ∧
    (t.status = .halted →
      (i = .ret → t.cause = .stackUnderflow) ∧
      (∀ nnn, i = .call nnn → t.cause = .stackOverflow) ∧
      (∀ x y n, i = .draw x y n → t.cause = .addressOutOfRange) ∧
      (∀ x, (i = .bcd x ∨ i = .storeRegs x ∨ i = .loadRegs x) →
        t.cause = .addressOutOfRange) ∧
      (∀ x, (i = .skipKeyDown x ∨ i = .skipKeyUp x) → t.cause = .keyIndexOutOfRange) ∧
      (∀ x, i = .spriteAddr x → t.cause = .fontIndexOutOfRange))

/-- R326: the timers tick exactly once in every step that fetches a word, whatever the word is, but for
the timer the instruction itself writes; a step that halts before the fetch, or finds the engine halted,
does not tick (D36). -/
def Obligations.TimersTickOncePerFetchedWord : Prop :=
  ∀ s t : State, step s = .next t →
    (s.Fetches →
      ((∀ x, decodeWord s.fetchWord ≠ .ok (.setDelay x)) → t.dt.toNat = s.dt.toNat - 1) ∧
      ((∀ x, decodeWord s.fetchWord ≠ .ok (.setSound x)) → t.st.toNat = s.st.toNat - 1) ∧
      (∀ x, decodeWord s.fetchWord = .ok (.setDelay x) → t.dt = s.readV x) ∧
      (∀ x, decodeWord s.fetchWord = .ok (.setSound x) → t.st = s.readV x)) ∧
    (¬ s.Fetches → t.dt = s.dt ∧ t.st = s.st)

/-- R322, R324: after `k` ticks a counter holds its value less `k`, and never less than 0. -/
def Obligations.TimersCountDownToZeroAndStay : Prop :=
  ∀ (s : State) (k : Nat),
    (State.tick^[k] s).dt.toNat = s.dt.toNat - k ∧ (State.tick^[k] s).st.toNat = s.st.toNat - k

/-- The "written by" column of R33 in the execute phase, over all instructions and every row: a `V`
register is changed only as the named destination `Vx`, in the block of `load-regs`, or as the flag `VF`;
`STACK` by `call` alone, `SP` by `call` and `return`, `I`, `D`, `MEM`, the timers and `PC` by the
instructions listed there; `STATUS` and `CAUSE` only by halting (R133), with nothing else changed, in one
of the nine instructions that can halt; the configuration and the input schedule by none (these stand in
State by the model's choice, log 1, log 2). -/
def Obligations.OnlyTheListedInstructionsWrite : Prop :=
  ∀ (i : Instr) (s t : State), exec i s = .next t →
    (∀ r, t.readV r ≠ s.readV r →
      (∃ kk, i = .loadImm r kk ∨ i = .addImm r kk ∨ i = .random r kk) ∨
      (∃ y, i = .move r y ∨ i = .or r y ∨ i = .and r y ∨ i = .xor r y ∨ i = .add r y ∨
        i = .sub r y ∨ i = .shiftRight r y ∨ i = .subn r y ∨ i = .shiftLeft r y) ∨
      i = .readDelay r ∨ i = .waitKey r ∨ (∃ x, i = .loadRegs x ∧ r.toNat ≤ x.toNat) ∨
      (r = 0xF ∧ ((∃ x y n, i = .draw x y n) ∨ ∃ x y, i = .add x y ∨ i = .sub x y ∨
        i = .shiftRight x y ∨ i = .subn x y ∨ i = .shiftLeft x y))) ∧
    (t.stack ≠ s.stack → ∃ nnn, i = .call nnn) ∧
    (t.sp ≠ s.sp → i = .ret ∨ ∃ nnn, i = .call nnn) ∧
    (t.i ≠ s.i → (∃ nnn, i = .loadAddr nnn) ∨ (∃ x, i = .addAddr x) ∨ ∃ x, i = .spriteAddr x) ∧
    (t.disp ≠ s.disp → i = .clear ∨ ∃ x y n, i = .draw x y n) ∧
    (t.mem ≠ s.mem → (∃ x, i = .bcd x) ∨ ∃ x, i = .storeRegs x) ∧
    (t.dt ≠ s.dt → ∃ x, i = .setDelay x) ∧
    (t.st ≠ s.st → ∃ x, i = .setSound x) ∧
    (t.pc ≠ s.pc → i = .ret ∨ (∃ nnn, i = .jump nnn ∨ i = .call nnn ∨ i = .jumpOffset nnn) ∨
      (∃ x kk, i = .skipEqImm x kk ∨ i = .skipNeImm x kk) ∨
      (∃ x y, i = .skipEqReg x y ∨ i = .skipNeReg x y) ∨
      ∃ x, i = .skipKeyDown x ∨ i = .skipKeyUp x ∨ i = .waitKey x) ∧
    (t.status ≠ s.status ∨ t.cause ≠ s.cause →
      t = { s with status := .halted, cause := t.cause } ∧
      (i = .ret ∨ (∃ nnn, i = .call nnn) ∨ (∃ x y n, i = .draw x y n) ∨
        ∃ x, i = .bcd x ∨ i = .storeRegs x ∨ i = .loadRegs x ∨ i = .skipKeyDown x ∨
          i = .skipKeyUp x ∨ i = .spriteAddr x)) ∧
    t.cfg = s.cfg ∧ t.inputs = s.inputs ∧ t.inputNo = s.inputNo

/-- R21: the instructions that write `VF` as a side effect are `add`, `sub`, `subn`, the two shifts and
`draw`; any other instruction that changes `VF` names it as its destination. -/
def Obligations.FlagIsWrittenOnlyByItsSix : Prop :=
  ∀ (i : Instr) (s t : State), exec i s = .next t → t.readV 0xF ≠ s.readV 0xF →
    (∃ x y, i = .add x y ∨ i = .sub x y ∨ i = .subn x y ∨ i = .shiftRight x y ∨
      i = .shiftLeft x y) ∨
    (∃ x y n, i = .draw x y n ∧ (t.readV 0xF = 0 ∨ t.readV 0xF = 1)) ∨
    (∃ kk, i = .loadImm 0xF kk ∨ i = .addImm 0xF kk ∨ i = .random 0xF kk) ∨
    (∃ y, i = .move 0xF y ∨ i = .or 0xF y ∨ i = .and 0xF y ∨ i = .xor 0xF y) ∨
    i = .readDelay 0xF ∨ i = .waitKey 0xF ∨ i = .loadRegs 0xF

/-- R130: only `random` depends on `rnd`, and only the three key instructions depend on `keys`: with the
other input changed, every other instruction answers the same state, the input itself apart. The input
schedule is the model's (log 1). -/
def Obligations.InputsReachOnlyTheirInstructions : Prop :=
  ∀ (i : Instr) (s t : State) (a b : StepInput), exec i (s.withInput a) = .next t →
    ((∀ x kk, i ≠ .random x kk) → a.keys = b.keys →
      exec i (s.withInput b) = .next { t with inputs := b :: s.inputs }) ∧
    ((∀ x, i ≠ .skipKeyDown x ∧ i ≠ .skipKeyUp x ∧ i ≠ .waitKey x) → a.rnd = b.rnd →
      exec i (s.withInput b) = .next { t with inputs := b :: s.inputs })

/-- The configuration inputs never change while the machine runs (R43; they stand in State by the model's
choice, log 2). -/
def Obligations.ConfigurationIsConstant : Prop :=
  ∀ s t : State, step s = .next t → t.cfg = s.cfg

/-- R46: the outputs are those of the state after the step, `CAUSE` as its code of R302 (the spec's own
numbering, D8) and the display port giving the pixel it is asked for; `repaint` is raised exactly in a
step in which an instruction reached the end of its execute phase without a fault (the spec's own decision
D29; the form of `repaint` is the model's, log 7). -/
def Obligations.OutputsFollowTheStep : Prop :=
  ∀ (s t : State) (o : Outputs), stepWithOutputs s = .next (t, o) →
    step s = .next t ∧
    (o.halted = true ↔ t.status = .halted) ∧ o.st = t.st ∧ o.dt = t.dt ∧
    (o.cause.toNat = match t.cause with
      | .none => 0
      | .endReached => 1
      | .fetchOutOfBounds => 2
      | .pcMisaligned => 3
      | .undefinedInstruction => 4
      | .stackOverflow => 5
      | .stackUnderflow => 6
      | .addressOutOfRange => 7
      | .keyIndexOutOfRange => 8
      | .fontIndexOutOfRange => 9) ∧
    (o.soundOn = true ↔ t.st.toNat ≠ 0) ∧
    (∀ (dispX : BitVec 6) (dispY : BitVec 5),
      t.dispQ dispX dispY = (t.disp[dispY.toNat]'dispY.isLt)[dispX.toNat]'dispX.isLt) ∧
    (o.repaint = true ↔ s.Fetches ∧ ∃ i u, decodeWord s.fetchWord = .ok i ∧
      exec i s.fetched = .next u ∧ u.status = .running)

/-- Every step keeps the invariant: memory in canonical form, a legal configuration, `PC` at most
0x10FE, live stack entries even and at most 0x1000, `CAUSE` `NONE` exactly while running. The canonical
form is the model's (log 3), the configuration in State too (log 2). -/
def Obligations.EveryStepKeepsTheInvariant : Prop :=
  ∀ s t : State, s.Inv → step s = .next t → t.Inv

/-- The invariant holds right after reset, and at every launch from a state whose memory is in canonical
form. Both rest on the model's own choices: the canonical form and the empty list at reset (log 3), the
configuration in State with its values at reset, `END_ADDR` 0x200 and `FONT_BASE` 0x000 among them
(log 2). -/
def Obligations.InvariantHoldsAtResetAndLaunch : Prop :=
  State.reset.Inv ∧
  ∀ (s t : State) (l : LaunchPlan), s.mem.wf = true → s.launch l = .next t → t.Inv

/-! ### Display -/

/-- R150: `clear` makes every pixel 0 and changes nothing else, `VF` included. -/
def Obligations.ClearZeroesTheDisplay : Prop :=
  decodeWord 0x00E0 = .ok .clear ∧
  ∀ s : State, ∃ t, exec .clear s = .next t ∧ (∀ y x, t.disp.get y x = false) ∧
    Frame { disp := true } s t

/-- R152 to R158: `draw` XORs the sprite onto the display. A pixel is inverted exactly when a set bit of
a drawn sprite row is aimed at it; `VF` is 1 if such a pixel was set before and 0 otherwise, written over
whatever `VF` held; nothing else changes; `n = 0` draws nothing and cannot fault; a sprite that reaches
above 0xFFF halts with `ADDRESS_OUT_OF_RANGE` and changes nothing. The spec's own decisions: D15 (the
position from the old `VF`), D19 (the bound), D24 (`VWRAP`), D25 (bit and row order), D26 (`n = 0`). -/
def Obligations.DrawXorsTheSpriteAndDetectsCollision : Prop :=
  ∀ (x y : RegIx) (n : BitVec 4) (s : State),
    decodeWord (wordXYN 0xD x y n) = .ok (.draw x y n) ∧
    (n.toNat = 0 ∨ s.i.toNat + n.toNat - 1 ≤ 0xFFF →
      ∃ t, exec (.draw x y n) s = .next t ∧
        (∀ yy xx, (s.SpriteHits x y n yy xx → t.disp.get yy xx = !s.disp.get yy xx) ∧
          (¬ s.SpriteHits x y n yy xx → t.disp.get yy xx = s.disp.get yy xx)) ∧
        ((∃ yy xx, s.SpriteHits x y n yy xx ∧ s.disp.get yy xx = true) → t.readV 0xF = 1) ∧
        ((¬ ∃ yy xx, s.SpriteHits x y n yy xx ∧ s.disp.get yy xx = true) → t.readV 0xF = 0) ∧
        Frame { regs := [0xF], disp := true } s t) ∧
    (0 < n.toNat → 0xFFF < s.i.toNat + n.toNat - 1 →
      exec (.draw x y n) s = .next { s with status := .halted, cause := .addressOutOfRange })

/-- R159: (a) drawing the same sprite at the same position twice restores the display, and the second
draw reports a collision exactly when some set bit is aimed at a pixel that was clear; (b) `clear`
followed by a draw leaves exactly the drawn pixels set, with `VF` 0; (d) a sprite of zero bytes changes
no pixel and leaves `VF` 0. In (a) the position must not be taken from `VF`, which the first draw
overwrites (R157). -/
def Obligations.SpriteXorProperties : Prop :=
  ∀ (x y : RegIx) (n : BitVec 4) (s : State),
    (n.toNat = 0 ∨ s.i.toNat + n.toNat - 1 ≤ 0xFFF) →
    (x ≠ 0xF → y ≠ 0xF → ∃ t u, exec (.draw x y n) s = .next t ∧ exec (.draw x y n) t = .next u ∧
      (∀ yy xx, u.disp.get yy xx = s.disp.get yy xx) ∧
      (u.readV 0xF = 1 ↔ ∃ yy xx, s.SpriteHits x y n yy xx ∧ s.disp.get yy xx = false) ∧
      (t.readV 0xF = 1 ↔ ∃ yy xx, s.SpriteHits x y n yy xx ∧ s.disp.get yy xx = true)) ∧
    (∃ t u, exec .clear s = .next t ∧ exec (.draw x y n) t = .next u ∧ u.readV 0xF = 0 ∧
      ∀ yy xx, u.disp.get yy xx = true ↔ s.SpriteHits x y n yy xx) ∧
    ((∀ r, r < n.toNat → s.readByte (s.dataAddr r) = 0) →
      ∃ t, exec (.draw x y n) s = .next t ∧ t.readV 0xF = 0 ∧
        ∀ yy xx, t.disp.get yy xx = s.disp.get yy xx)

/-! ### Control transfer -/

/-- R174, R184: `jump` and `jump-offset` load `PC` with `nnn` and with `nnn + V0` (no wrap, the target
not checked), and change nothing else; the next step makes the checks (HaltAndFetchChecksInOrder). -/
def Obligations.JumpsLoadThePc : Prop :=
  ∀ (nnn : Addr) (s : State),
    (decodeWord (wordNNN 0x1 nnn) = .ok (.jump nnn) ∧
      ∃ t, exec (.jump nnn) s = .next t ∧ t.pc.toNat = nnn.toNat ∧ Frame { pc := true } s t) ∧
    (decodeWord (wordNNN 0xB nnn) = .ok (.jumpOffset nnn) ∧
      ∃ t, exec (.jumpOffset nnn) s = .next t ∧ t.pc.toNat = nnn.toNat + (s.readV 0).toNat ∧
        Frame { pc := true } s t)

/-- R176: `call` pushes the address after the call and jumps; with 16 entries in use it halts with
`STACK_OVERFLOW` (the stack's convention and the halt are the spec's own decisions D7, D8, D32). -/
def Obligations.CallPushesAndJumps : Prop :=
  ∀ (nnn : Addr) (s : State),
    decodeWord (wordNNN 0x2 nnn) = .ok (.call nnn) ∧
    (s.sp.val < 16 → ∃ t, exec (.call nnn) s = .next t ∧ t.pc.toNat = nnn.toNat ∧
      t.sp.val = s.sp.val + 1 ∧
      (∀ k : Fin 16, t.stack[k] = if k.val = s.sp.val then s.pc else s.stack[k]) ∧
      Frame { pc := true, stack := true } s t) ∧
    (s.sp.val = 16 →
      exec (.call nnn) s = .next { s with status := .halted, cause := .stackOverflow })

/-- R172: `return` pops the top of the stack into `PC` and leaves the entry where it is; with an empty
stack it halts with `STACK_UNDERFLOW` (the spec's own decisions D7, D8, D32). -/
def Obligations.ReturnPopsIntoThePc : Prop :=
  decodeWord 0x00EE = .ok .ret ∧
  ∀ s : State,
    (∀ k : Fin 16, s.sp.val = k.val + 1 → ∃ t, exec .ret s = .next t ∧ t.pc = s.stack[k] ∧
      t.sp.val = k.val ∧ (∀ j : Fin 16, t.stack[j] = s.stack[j]) ∧
      Frame { pc := true, stack := true } s t) ∧
    (s.sp.val = 0 → exec .ret s = .next { s with status := .halted, cause := .stackUnderflow })

/-- A call followed by a return comes back to the instruction after the call, with the stack depth as
before, at every depth the call does not overflow (95_test_vectors.md S6). -/
def Obligations.ReturnUndoesCall : Prop :=
  ∀ (nnn : Addr) (s : State), s.sp.val < 16 →
    ∃ t u, exec (.call nnn) s = .next t ∧ exec .ret t.fetched = .next u ∧ u.pc = s.pc ∧
      u.sp = s.sp ∧ ∀ k : Fin 16, k.val < s.sp.val → u.stack[k] = s.stack[k]

/-- R178, R180, R182, R183: a skip advances `PC` by 2 more exactly when its condition holds, and changes
nothing else; a nonzero low nibble in families 5 and 9 is
no instruction.
That such a word of families 5 and 9 is no instruction is the spec's own decision (R101, D14; log 13). -/
def Obligations.SkipsAdvanceOnTheirCondition : Prop :=
  ∀ (x y : RegIx) (kk : Byte) (s : State),
    (decodeWord (wordXKK 0x3 x kk) = .ok (.skipEqImm x kk) ∧
      ∃ t, exec (.skipEqImm x kk) s = .next t ∧ Frame { pc := true } s t ∧
        t.pc = if (s.readV x).toNat = kk.toNat then s.pc + 2 else s.pc) ∧
    (decodeWord (wordXKK 0x4 x kk) = .ok (.skipNeImm x kk) ∧
      ∃ t, exec (.skipNeImm x kk) s = .next t ∧ Frame { pc := true } s t ∧
        t.pc = if (s.readV x).toNat = kk.toNat then s.pc else s.pc + 2) ∧
    (decodeWord (wordXYN 0x5 x y 0) = .ok (.skipEqReg x y) ∧
      ∃ t, exec (.skipEqReg x y) s = .next t ∧ Frame { pc := true } s t ∧
        t.pc = if (s.readV x).toNat = (s.readV y).toNat then s.pc + 2 else s.pc) ∧
    (decodeWord (wordXYN 0x9 x y 0) = .ok (.skipNeReg x y) ∧
      ∃ t, exec (.skipNeReg x y) s = .next t ∧ Frame { pc := true } s t ∧
        t.pc = if (s.readV x).toNat = (s.readV y).toNat then s.pc else s.pc + 2) ∧
    ∀ n : BitVec 4, n ≠ 0 →
      (∀ i, decodeWord (wordXYN 0x5 x y n) ≠ .ok i) ∧ ∀ i, decodeWord (wordXYN 0x9 x y n) ≠ .ok i

/-! ### Loads, ALU, random -/

/-- R204, R206, R208: `load-imm`, `add-imm` (modulo 256, no flag) and `move` write `Vx` and nothing
else. -/
def Obligations.LoadAddImmMoveResults : Prop :=
  ∀ (x y : RegIx) (kk : Byte) (s : State),
    (decodeWord (wordXKK 0x6 x kk) = .ok (.loadImm x kk) ∧
      ∃ t, exec (.loadImm x kk) s = .next t ∧ t.readV x = kk ∧ Frame { regs := [x] } s t) ∧
    (decodeWord (wordXKK 0x7 x kk) = .ok (.addImm x kk) ∧
      ∃ t, exec (.addImm x kk) s = .next t ∧
        (t.readV x).toNat = ((s.readV x).toNat + kk.toNat) % 256 ∧ Frame { regs := [x] } s t) ∧
    (decodeWord (wordXYN 0x8 x y 0x0) = .ok (.move x y) ∧
      ∃ t, exec (.move x y) s = .next t ∧ t.readV x = s.readV y ∧ Frame { regs := [x] } s t)

/-- R210, R212, R214: the logic operations bit by bit; `VF` is no flag of theirs.
That they leave `VF` is the spec's own reading (R21 [derived], D31; log 13). -/
def Obligations.LogicResultsBitByBit : Prop :=
  ∀ (x y : RegIx) (s : State),
    (decodeWord (wordXYN 0x8 x y 0x1) = .ok (.or x y) ∧
      ∃ t, exec (.or x y) s = .next t ∧ Frame { regs := [x] } s t ∧
        ∀ b, (t.readV x).getLsbD b = ((s.readV x).getLsbD b || (s.readV y).getLsbD b)) ∧
    (decodeWord (wordXYN 0x8 x y 0x2) = .ok (.and x y) ∧
      ∃ t, exec (.and x y) s = .next t ∧ Frame { regs := [x] } s t ∧
        ∀ b, (t.readV x).getLsbD b = ((s.readV x).getLsbD b && (s.readV y).getLsbD b)) ∧
    (decodeWord (wordXYN 0x8 x y 0x3) = .ok (.xor x y) ∧
      ∃ t, exec (.xor x y) s = .next t ∧ Frame { regs := [x] } s t ∧
        ∀ b, (t.readV x).getLsbD b = ((s.readV x).getLsbD b != (s.readV y).getLsbD b))

/-- R216: `add` writes the sum modulo 256 to `Vx` and the carry to `VF`, both from the old operands; with
`x = F` the result stays (R203, the spec's own reading D16). -/
def Obligations.AddResultAndCarry : Prop :=
  ∀ (x y : RegIx) (s : State),
    decodeWord (wordXYN 0x8 x y 0x4) = .ok (.add x y) ∧
    ∃ t, exec (.add x y) s = .next t ∧ Frame { regs := [x, 0xF] } s t ∧
      (t.readV x).toNat = ((s.readV x).toNat + (s.readV y).toNat) % 256 ∧
      (x ≠ 0xF → t.readV 0xF = if 255 < (s.readV x).toNat + (s.readV y).toNat then 1 else 0)

/-- R218, R222: `sub` and `subn` write the difference modulo 256 to `Vx` and 1 to `VF` exactly when there
is no borrow, equality included; with `x = F` the result stays (R203, the spec's own reading D16). -/
def Obligations.SubtractResultsAndNoBorrow : Prop :=
  ∀ (x y : RegIx) (s : State),
    (decodeWord (wordXYN 0x8 x y 0x5) = .ok (.sub x y) ∧
      ∃ t, exec (.sub x y) s = .next t ∧ Frame { regs := [x, 0xF] } s t ∧
        ((t.readV x).toNat : Int) = ((s.readV x).toNat - (s.readV y).toNat : Int) % 256 ∧
        (x ≠ 0xF → t.readV 0xF = if (s.readV y).toNat ≤ (s.readV x).toNat then 1 else 0)) ∧
    (decodeWord (wordXYN 0x8 x y 0x7) = .ok (.subn x y) ∧
      ∃ t, exec (.subn x y) s = .next t ∧ Frame { regs := [x, 0xF] } s t ∧
        ((t.readV x).toNat : Int) = ((s.readV y).toNat - (s.readV x).toNat : Int) % 256 ∧
        (x ≠ 0xF → t.readV 0xF = if (s.readV x).toNat ≤ (s.readV y).toNat then 1 else 0))

/-- R220, R224: the shifts by one of `Vx` (`FIXED`) or `Vy` (`CLASSIC`), with the bit shifted out in `VF`;
with `x = F` the result stays (R203, the spec's own reading D16). `CLASSIC` is the spec's own decision
(D17). -/
def Obligations.ShiftResultsInBothModes : Prop :=
  ∀ (x y : RegIx) (s : State) (src : Byte),
    (s.cfg.shiftQuirk = .fixed → src = s.readV x) →
    (s.cfg.shiftQuirk = .classic → src = s.readV y) →
    (decodeWord (wordXYN 0x8 x y 0x6) = .ok (.shiftRight x y) ∧
      ∃ t, exec (.shiftRight x y) s = .next t ∧ Frame { regs := [x, 0xF] } s t ∧
        (t.readV x).toNat = src.toNat / 2 ∧
        (x ≠ 0xF → (t.readV 0xF).toNat = src.toNat % 2)) ∧
    (decodeWord (wordXYN 0x8 x y 0xE) = .ok (.shiftLeft x y) ∧
      ∃ t, exec (.shiftLeft x y) s = .next t ∧ Frame { regs := [x, 0xF] } s t ∧
        (t.readV x).toNat = src.toNat * 2 % 256 ∧
        (x ≠ 0xF → (t.readV 0xF).toNat = src.toNat / 128))

/-- R226: `random` writes the step's random byte, whatever it is, masked by `kk` (`rnd` is a free input,
D27; how State carries it is the model's choice, log 1). -/
def Obligations.RandomIsTheInputMasked : Prop :=
  ∀ (x : RegIx) (kk : Byte) (s : State),
    decodeWord (wordXKK 0xC x kk) = .ok (.random x kk) ∧
    (∃ t, exec (.random x kk) s = .next t ∧ Frame { regs := [x] } s t ∧
      ∀ b, (t.readV x).getLsbD b = (s.rnd.getLsbD b && kk.getLsbD b)) ∧
    ∀ inp, (s.withInput inp).rnd = inp.rnd

/-! ### Address register and memory -/

/-- R242, R244: `load-addr` writes `nnn` to `I`, `add-addr` adds `Vx` to `I` modulo 65536 without a flag
or a fault (the spec's own decision D18); neither changes anything else. -/
def Obligations.AddressRegisterLoads : Prop :=
  ∀ (nnn : Addr) (x : RegIx) (s : State),
    (decodeWord (wordNNN 0xA nnn) = .ok (.loadAddr nnn) ∧
      ∃ t, exec (.loadAddr nnn) s = .next t ∧ t.i.toNat = nnn.toNat ∧ Frame { i := true } s t) ∧
    (decodeWord (wordXKK 0xF x 0x1E) = .ok (.addAddr x) ∧
      ∃ t, exec (.addAddr x) s = .next t ∧
        t.i.toNat = (s.i.toNat + (s.readV x).toNat) % 65536 ∧ Frame { i := true } s t)

/-- R246: `sprite-addr` writes `FONT_BASE + 5 * Vx` to `I` for a digit 0 to 15, and halts with
`FONT_INDEX_OUT_OF_RANGE` for any other byte (the spec's own decision D21). -/
def Obligations.SpriteAddressOfADigit : Prop :=
  ∀ (x : RegIx) (s : State),
    decodeWord (wordXKK 0xF x 0x29) = .ok (.spriteAddr x) ∧
    ((s.readV x).toNat ≤ 0x0F → ∃ t, exec (.spriteAddr x) s = .next t ∧
      t.i.toNat = s.cfg.fontBase.toNat + 5 * (s.readV x).toNat ∧ Frame { i := true } s t) ∧
    (0x0F < (s.readV x).toNat →
      exec (.spriteAddr x) s = .next { s with status := .halted, cause := .fontIndexOutOfRange })

/-- R248: `bcd` stores the hundreds, tens and ones of `Vx` at `I`, `I+1`, `I+2` and nothing else; it halts
with `ADDRESS_OUT_OF_RANGE`, storing nothing, if `I + 2 > 0xFFF`.
The halt before any store is the spec's own decision (R72, D19; log 13). -/
def Obligations.BcdStoresThreeDigits : Prop :=
  ∀ (x : RegIx) (s : State),
    decodeWord (wordXKK 0xF x 0x33) = .ok (.bcd x) ∧
    (s.i.toNat + 2 ≤ 0xFFF → ∃ t, exec (.bcd x) s = .next t ∧
      (t.readByte (s.dataAddr 0)).toNat = (s.readV x).toNat / 100 ∧
      (t.readByte (s.dataAddr 1)).toNat = (s.readV x).toNat / 10 % 10 ∧
      (t.readByte (s.dataAddr 2)).toNat = (s.readV x).toNat % 10 ∧
      Frame { mem := [s.dataAddr 0, s.dataAddr 1, s.dataAddr 2] } s t) ∧
    (0xFFF < s.i.toNat + 2 →
      exec (.bcd x) s = .next { s with status := .halted, cause := .addressOutOfRange })

/-- R252: `store-regs` stores `V0` to `Vx` at `I` to `I + x` and nothing else, `I` and the registers
unchanged; it halts with `ADDRESS_OUT_OF_RANGE`, storing nothing, if `I + x > 0xFFF`.
The halt before any store is the spec's own decision (R72, D19; log 13), and so is that `I` stays (R240
[derived], D31; log 13). -/
def Obligations.StoreRegsCopiesToMemory : Prop :=
  ∀ (x : RegIx) (s : State),
    decodeWord (wordXKK 0xF x 0x55) = .ok (.storeRegs x) ∧
    (s.i.toNat + x.toNat ≤ 0xFFF → ∃ t, exec (.storeRegs x) s = .next t ∧
      (∀ k : RegIx, k.toNat ≤ x.toNat → t.readByte (s.dataAddr k.toNat) = s.readV k) ∧
      Frame { mem := (List.range (x.toNat + 1)).map s.dataAddr } s t) ∧
    (0xFFF < s.i.toNat + x.toNat →
      exec (.storeRegs x) s = .next { s with status := .halted, cause := .addressOutOfRange })

/-- R256: `load-regs` loads `V0` to `Vx` from `I` to `I + x`, the registers above `Vx`, `I` and memory
unchanged; it halts with `ADDRESS_OUT_OF_RANGE`, loading nothing, if `I + x > 0xFFF`. And "storing V0..V3
to memory then loading V0..V3 back from the same address reproduces the original register values exactly,
for x=0 (single register) through x=15 (all registers)": whatever the registers hold in between, with `I`
and memory as the store left them.
The halt before any load is the spec's own decision (R72, D19; log 13), and so is that `I` stays (R240
[derived], D31; log 13). -/
def Obligations.LoadRegsCopiesFromMemory : Prop :=
  ∀ (x : RegIx) (s : State),
    decodeWord (wordXKK 0xF x 0x65) = .ok (.loadRegs x) ∧
    (s.i.toNat + x.toNat ≤ 0xFFF → ∃ t, exec (.loadRegs x) s = .next t ∧
      (∀ k : RegIx, k.toNat ≤ x.toNat → t.readV k = s.readByte (s.dataAddr k.toNat)) ∧
      Frame { regs := (List.range (x.toNat + 1)).map (BitVec.ofNat 4) } s t) ∧
    (0xFFF < s.i.toNat + x.toNat →
      exec (.loadRegs x) s = .next { s with status := .halted, cause := .addressOutOfRange }) ∧
    (s.i.toNat + x.toNat ≤ 0xFFF → ∃ t, exec (.storeRegs x) s = .next t ∧
      ∀ m : State, m.i = t.i → m.mem = t.mem →
        ∃ u, exec (.loadRegs x) m = .next u ∧
          ∀ k : RegIx, u.readV k = if k.toNat ≤ x.toNat then s.readV k else m.readV k)

/-- R82: a store is seen by the very next fetch. Where `store-regs` stores over the two bytes at `PC`,
the word the next step fetches is made of the registers stored there, the one at the lower address
high (R67). -/
def Obligations.NextFetchSeesTheStore : Prop :=
  ∀ (x k : RegIx) (s : State), s.i.toNat + x.toNat ≤ 0xFFF → k.toNat + 1 ≤ x.toNat →
    s.pc.toNat = s.i.toNat + k.toNat →
    ∃ t, exec (.storeRegs x) s = .next t ∧
      t.consumeInput.fetchWord.toNat = (s.readV k).toNat * 256 + (s.readV (k + 1)).toNat

/-! ### Keys and timers -/

/-- R272, R274: the key skips test the level of key `Vx` in the step's one sample and advance `PC` by 2
more when it is down, or up; `Vx` above 15 halts with `KEY_INDEX_OUT_OF_RANGE` (the spec's own decision
D22). How State carries the sample is the model's choice (log 1). -/
def Obligations.KeySkipsTestTheLatch : Prop :=
  ∀ (x : RegIx) (s : State),
    decodeWord (wordXKK 0xE x 0x9E) = .ok (.skipKeyDown x) ∧
    decodeWord (wordXKK 0xE x 0xA1) = .ok (.skipKeyUp x) ∧
    ((s.readV x).toNat ≤ 0x0F →
      (∃ t, exec (.skipKeyDown x) s = .next t ∧ Frame { pc := true } s t ∧
        t.pc = if s.keys.getLsbD (s.readV x).toNat then s.pc + 2 else s.pc) ∧
      (∃ t, exec (.skipKeyUp x) s = .next t ∧ Frame { pc := true } s t ∧
        t.pc = if s.keys.getLsbD (s.readV x).toNat then s.pc else s.pc + 2)) ∧
    (0x0F < (s.readV x).toNat →
      exec (.skipKeyDown x) s = .next { s with status := .halted, cause := .keyIndexOutOfRange } ∧
      exec (.skipKeyUp x) s = .next { s with status := .halted, cause := .keyIndexOutOfRange }) ∧
    ∀ inp, (s.withInput inp).keys = inp.keys

/-- R282: with a key pressed `wait-key` writes the least pressed key to `Vx` and goes on; with none it
takes `PC` back to itself and changes nothing else (the spec's own decision D23). -/
def Obligations.WaitKeyDeliversTheLeastKeyOrWaits : Prop :=
  ∀ (x : RegIx) (s : State),
    decodeWord (wordXKK 0xF x 0x0A) = .ok (.waitKey x) ∧
    (∀ k, k < 16 → s.keys.getLsbD k = true → (∀ j, j < k → s.keys.getLsbD j = false) →
      ∃ t, exec (.waitKey x) s = .next t ∧ (t.readV x).toNat = k ∧ Frame { regs := [x] } s t) ∧
    (s.keys = 0 →
      ∃ t, exec (.waitKey x) s = .next t ∧ t.pc = s.pc - 2 ∧ Frame { pc := true } s t)

/-- R282 (a): a blocked `wait-key` is a complete, ordinary step: it ticks both timers, ends with `PC` at
the instruction itself, and changes nothing else; the engine still runs (D23; the input taken is the
model's, log 1). -/
def Obligations.BlockedWaitKeyIsAStep : Prop :=
  ∀ (x : RegIx) (s : State), s.Fetches → decodeWord s.fetchWord = .ok (.waitKey x) → s.keys = 0 →
    ∃ t, step s = .next t ∧ t.pc = s.pc ∧ t.status = .running ∧ repaint s t = true ∧
      t.dt.toNat = s.dt.toNat - 1 ∧ t.st.toNat = s.st.toNat - 1 ∧
      t = { s with dt := t.dt, st := t.st, inputs := s.inputs.tail, inputNo := s.inputNo + 1 }

/-- R276, R286, R288: `read-delay` copies `DT` (as ticked) to `Vx`; `set-delay` and `set-sound` write `Vx`
to their timer; nothing else changes. -/
def Obligations.TimerInstructionsCopy : Prop :=
  ∀ (x : RegIx) (s : State),
    (decodeWord (wordXKK 0xF x 0x07) = .ok (.readDelay x) ∧
      ∃ t, exec (.readDelay x) s = .next t ∧ t.readV x = s.dt ∧ Frame { regs := [x] } s t) ∧
    (decodeWord (wordXKK 0xF x 0x15) = .ok (.setDelay x) ∧
      ∃ t, exec (.setDelay x) s = .next t ∧ t.dt = s.readV x ∧ Frame { dt := true } s t) ∧
    (decodeWord (wordXKK 0xF x 0x18) = .ok (.setSound x) ∧
      ∃ t, exec (.setSound x) s = .next t ∧ t.st = s.readV x ∧ Frame { st := true } s t)
end

