-- ==== Sys2Proof/Laws/State.lean ====
section
/-!
SUPPORT. One lemma per field per update of the state, true by definition, so that no later proof
unfolds a record update.
-/

namespace Sys2Proof.Machine

variable (s : State)

@[simp] theorem writeV_v (r : RegIx) (b : Byte) : (s.writeV r b).v = s.v.set r.toNat b r.isLt := rfl
@[simp] theorem writeV_i (r : RegIx) (b : Byte) : (s.writeV r b).i = s.i := rfl
@[simp] theorem writeV_pc (r : RegIx) (b : Byte) : (s.writeV r b).pc = s.pc := rfl
@[simp] theorem writeV_stack (r : RegIx) (b : Byte) : (s.writeV r b).stack = s.stack := rfl
@[simp] theorem writeV_sp (r : RegIx) (b : Byte) : (s.writeV r b).sp = s.sp := rfl
@[simp] theorem writeV_dt (r : RegIx) (b : Byte) : (s.writeV r b).dt = s.dt := rfl
@[simp] theorem writeV_st (r : RegIx) (b : Byte) : (s.writeV r b).st = s.st := rfl
@[simp] theorem writeV_disp (r : RegIx) (b : Byte) : (s.writeV r b).disp = s.disp := rfl
@[simp] theorem writeV_mem (r : RegIx) (b : Byte) : (s.writeV r b).mem = s.mem := rfl
@[simp] theorem writeV_status (r : RegIx) (b : Byte) : (s.writeV r b).status = s.status := rfl
@[simp] theorem writeV_cause (r : RegIx) (b : Byte) : (s.writeV r b).cause = s.cause := rfl
@[simp] theorem writeV_cfg (r : RegIx) (b : Byte) : (s.writeV r b).cfg = s.cfg := rfl
@[simp] theorem writeV_inputs (r : RegIx) (b : Byte) : (s.writeV r b).inputs = s.inputs := rfl
@[simp] theorem writeV_inputNo (r : RegIx) (b : Byte) : (s.writeV r b).inputNo = s.inputNo := rfl

@[simp] theorem writeI_v (a : Word) : (s.writeI a).v = s.v := rfl
@[simp] theorem writeI_i (a : Word) : (s.writeI a).i = a := rfl
@[simp] theorem writeI_pc (a : Word) : (s.writeI a).pc = s.pc := rfl
@[simp] theorem writeI_stack (a : Word) : (s.writeI a).stack = s.stack := rfl
@[simp] theorem writeI_sp (a : Word) : (s.writeI a).sp = s.sp := rfl
@[simp] theorem writeI_dt (a : Word) : (s.writeI a).dt = s.dt := rfl
@[simp] theorem writeI_st (a : Word) : (s.writeI a).st = s.st := rfl
@[simp] theorem writeI_disp (a : Word) : (s.writeI a).disp = s.disp := rfl
@[simp] theorem writeI_mem (a : Word) : (s.writeI a).mem = s.mem := rfl
@[simp] theorem writeI_status (a : Word) : (s.writeI a).status = s.status := rfl
@[simp] theorem writeI_cause (a : Word) : (s.writeI a).cause = s.cause := rfl
@[simp] theorem writeI_cfg (a : Word) : (s.writeI a).cfg = s.cfg := rfl
@[simp] theorem writeI_inputs (a : Word) : (s.writeI a).inputs = s.inputs := rfl
@[simp] theorem writeI_inputNo (a : Word) : (s.writeI a).inputNo = s.inputNo := rfl

@[simp] theorem setPc_v (a : Word) : (s.setPc a).v = s.v := rfl
@[simp] theorem setPc_i (a : Word) : (s.setPc a).i = s.i := rfl
@[simp] theorem setPc_pc (a : Word) : (s.setPc a).pc = a := rfl
@[simp] theorem setPc_stack (a : Word) : (s.setPc a).stack = s.stack := rfl
@[simp] theorem setPc_sp (a : Word) : (s.setPc a).sp = s.sp := rfl
@[simp] theorem setPc_dt (a : Word) : (s.setPc a).dt = s.dt := rfl
@[simp] theorem setPc_st (a : Word) : (s.setPc a).st = s.st := rfl
@[simp] theorem setPc_disp (a : Word) : (s.setPc a).disp = s.disp := rfl
@[simp] theorem setPc_mem (a : Word) : (s.setPc a).mem = s.mem := rfl
@[simp] theorem setPc_status (a : Word) : (s.setPc a).status = s.status := rfl
@[simp] theorem setPc_cause (a : Word) : (s.setPc a).cause = s.cause := rfl
@[simp] theorem setPc_cfg (a : Word) : (s.setPc a).cfg = s.cfg := rfl
@[simp] theorem setPc_inputs (a : Word) : (s.setPc a).inputs = s.inputs := rfl
@[simp] theorem setPc_inputNo (a : Word) : (s.setPc a).inputNo = s.inputNo := rfl

@[simp] theorem advancePc_v : (s.advancePc).v = s.v := rfl
@[simp] theorem advancePc_i : (s.advancePc).i = s.i := rfl
@[simp] theorem advancePc_pc : (s.advancePc).pc = s.pc + 2 := rfl
@[simp] theorem advancePc_stack : (s.advancePc).stack = s.stack := rfl
@[simp] theorem advancePc_sp : (s.advancePc).sp = s.sp := rfl
@[simp] theorem advancePc_dt : (s.advancePc).dt = s.dt := rfl
@[simp] theorem advancePc_st : (s.advancePc).st = s.st := rfl
@[simp] theorem advancePc_disp : (s.advancePc).disp = s.disp := rfl
@[simp] theorem advancePc_mem : (s.advancePc).mem = s.mem := rfl
@[simp] theorem advancePc_status : (s.advancePc).status = s.status := rfl
@[simp] theorem advancePc_cause : (s.advancePc).cause = s.cause := rfl
@[simp] theorem advancePc_cfg : (s.advancePc).cfg = s.cfg := rfl
@[simp] theorem advancePc_inputs : (s.advancePc).inputs = s.inputs := rfl
@[simp] theorem advancePc_inputNo : (s.advancePc).inputNo = s.inputNo := rfl

@[simp] theorem retreatPc_v : (s.retreatPc).v = s.v := rfl
@[simp] theorem retreatPc_i : (s.retreatPc).i = s.i := rfl
@[simp] theorem retreatPc_pc : (s.retreatPc).pc = s.pc - 2 := rfl
@[simp] theorem retreatPc_stack : (s.retreatPc).stack = s.stack := rfl
@[simp] theorem retreatPc_sp : (s.retreatPc).sp = s.sp := rfl
@[simp] theorem retreatPc_dt : (s.retreatPc).dt = s.dt := rfl
@[simp] theorem retreatPc_st : (s.retreatPc).st = s.st := rfl
@[simp] theorem retreatPc_disp : (s.retreatPc).disp = s.disp := rfl
@[simp] theorem retreatPc_mem : (s.retreatPc).mem = s.mem := rfl
@[simp] theorem retreatPc_status : (s.retreatPc).status = s.status := rfl
@[simp] theorem retreatPc_cause : (s.retreatPc).cause = s.cause := rfl
@[simp] theorem retreatPc_cfg : (s.retreatPc).cfg = s.cfg := rfl
@[simp] theorem retreatPc_inputs : (s.retreatPc).inputs = s.inputs := rfl
@[simp] theorem retreatPc_inputNo : (s.retreatPc).inputNo = s.inputNo := rfl

@[simp] theorem writeDt_v (b : Byte) : (s.writeDt b).v = s.v := rfl
@[simp] theorem writeDt_i (b : Byte) : (s.writeDt b).i = s.i := rfl
@[simp] theorem writeDt_pc (b : Byte) : (s.writeDt b).pc = s.pc := rfl
@[simp] theorem writeDt_stack (b : Byte) : (s.writeDt b).stack = s.stack := rfl
@[simp] theorem writeDt_sp (b : Byte) : (s.writeDt b).sp = s.sp := rfl
@[simp] theorem writeDt_dt (b : Byte) : (s.writeDt b).dt = b := rfl
@[simp] theorem writeDt_st (b : Byte) : (s.writeDt b).st = s.st := rfl
@[simp] theorem writeDt_disp (b : Byte) : (s.writeDt b).disp = s.disp := rfl
@[simp] theorem writeDt_mem (b : Byte) : (s.writeDt b).mem = s.mem := rfl
@[simp] theorem writeDt_status (b : Byte) : (s.writeDt b).status = s.status := rfl
@[simp] theorem writeDt_cause (b : Byte) : (s.writeDt b).cause = s.cause := rfl
@[simp] theorem writeDt_cfg (b : Byte) : (s.writeDt b).cfg = s.cfg := rfl
@[simp] theorem writeDt_inputs (b : Byte) : (s.writeDt b).inputs = s.inputs := rfl
@[simp] theorem writeDt_inputNo (b : Byte) : (s.writeDt b).inputNo = s.inputNo := rfl

@[simp] theorem writeSt_v (b : Byte) : (s.writeSt b).v = s.v := rfl
@[simp] theorem writeSt_i (b : Byte) : (s.writeSt b).i = s.i := rfl
@[simp] theorem writeSt_pc (b : Byte) : (s.writeSt b).pc = s.pc := rfl
@[simp] theorem writeSt_stack (b : Byte) : (s.writeSt b).stack = s.stack := rfl
@[simp] theorem writeSt_sp (b : Byte) : (s.writeSt b).sp = s.sp := rfl
@[simp] theorem writeSt_dt (b : Byte) : (s.writeSt b).dt = s.dt := rfl
@[simp] theorem writeSt_st (b : Byte) : (s.writeSt b).st = b := rfl
@[simp] theorem writeSt_disp (b : Byte) : (s.writeSt b).disp = s.disp := rfl
@[simp] theorem writeSt_mem (b : Byte) : (s.writeSt b).mem = s.mem := rfl
@[simp] theorem writeSt_status (b : Byte) : (s.writeSt b).status = s.status := rfl
@[simp] theorem writeSt_cause (b : Byte) : (s.writeSt b).cause = s.cause := rfl
@[simp] theorem writeSt_cfg (b : Byte) : (s.writeSt b).cfg = s.cfg := rfl
@[simp] theorem writeSt_inputs (b : Byte) : (s.writeSt b).inputs = s.inputs := rfl
@[simp] theorem writeSt_inputNo (b : Byte) : (s.writeSt b).inputNo = s.inputNo := rfl

@[simp] theorem writeDisp_v (d : Display) : (s.writeDisp d).v = s.v := rfl
@[simp] theorem writeDisp_i (d : Display) : (s.writeDisp d).i = s.i := rfl
@[simp] theorem writeDisp_pc (d : Display) : (s.writeDisp d).pc = s.pc := rfl
@[simp] theorem writeDisp_stack (d : Display) : (s.writeDisp d).stack = s.stack := rfl
@[simp] theorem writeDisp_sp (d : Display) : (s.writeDisp d).sp = s.sp := rfl
@[simp] theorem writeDisp_dt (d : Display) : (s.writeDisp d).dt = s.dt := rfl
@[simp] theorem writeDisp_st (d : Display) : (s.writeDisp d).st = s.st := rfl
@[simp] theorem writeDisp_disp (d : Display) : (s.writeDisp d).disp = d := rfl
@[simp] theorem writeDisp_mem (d : Display) : (s.writeDisp d).mem = s.mem := rfl
@[simp] theorem writeDisp_status (d : Display) : (s.writeDisp d).status = s.status := rfl
@[simp] theorem writeDisp_cause (d : Display) : (s.writeDisp d).cause = s.cause := rfl
@[simp] theorem writeDisp_cfg (d : Display) : (s.writeDisp d).cfg = s.cfg := rfl
@[simp] theorem writeDisp_inputs (d : Display) : (s.writeDisp d).inputs = s.inputs := rfl
@[simp] theorem writeDisp_inputNo (d : Display) : (s.writeDisp d).inputNo = s.inputNo := rfl

@[simp] theorem writeBytes_v (a : Nat) (bs : List Byte) : (s.writeBytes a bs).v = s.v := rfl
@[simp] theorem writeBytes_i (a : Nat) (bs : List Byte) : (s.writeBytes a bs).i = s.i := rfl
@[simp] theorem writeBytes_pc (a : Nat) (bs : List Byte) : (s.writeBytes a bs).pc = s.pc := rfl
@[simp] theorem writeBytes_stack (a : Nat) (bs : List Byte) :
    (s.writeBytes a bs).stack = s.stack := rfl
@[simp] theorem writeBytes_sp (a : Nat) (bs : List Byte) : (s.writeBytes a bs).sp = s.sp := rfl
@[simp] theorem writeBytes_dt (a : Nat) (bs : List Byte) : (s.writeBytes a bs).dt = s.dt := rfl
@[simp] theorem writeBytes_st (a : Nat) (bs : List Byte) : (s.writeBytes a bs).st = s.st := rfl
@[simp] theorem writeBytes_disp (a : Nat) (bs : List Byte) :
    (s.writeBytes a bs).disp = s.disp := rfl
@[simp] theorem writeBytes_mem (a : Nat) (bs : List Byte) :
    (s.writeBytes a bs).mem = s.mem.writeBytes a bs := rfl
@[simp] theorem writeBytes_status (a : Nat) (bs : List Byte) :
    (s.writeBytes a bs).status = s.status := rfl
@[simp] theorem writeBytes_cause (a : Nat) (bs : List Byte) :
    (s.writeBytes a bs).cause = s.cause := rfl
@[simp] theorem writeBytes_cfg (a : Nat) (bs : List Byte) : (s.writeBytes a bs).cfg = s.cfg := rfl
@[simp] theorem writeBytes_inputs (a : Nat) (bs : List Byte) :
    (s.writeBytes a bs).inputs = s.inputs := rfl
@[simp] theorem writeBytes_inputNo (a : Nat) (bs : List Byte) :
    (s.writeBytes a bs).inputNo = s.inputNo := rfl

@[simp] theorem loadBlock_i (a : Nat) (x : RegIx) : (s.loadBlock a x).i = s.i := rfl
@[simp] theorem loadBlock_pc (a : Nat) (x : RegIx) : (s.loadBlock a x).pc = s.pc := rfl
@[simp] theorem loadBlock_stack (a : Nat) (x : RegIx) : (s.loadBlock a x).stack = s.stack := rfl
@[simp] theorem loadBlock_sp (a : Nat) (x : RegIx) : (s.loadBlock a x).sp = s.sp := rfl
@[simp] theorem loadBlock_dt (a : Nat) (x : RegIx) : (s.loadBlock a x).dt = s.dt := rfl
@[simp] theorem loadBlock_st (a : Nat) (x : RegIx) : (s.loadBlock a x).st = s.st := rfl
@[simp] theorem loadBlock_disp (a : Nat) (x : RegIx) : (s.loadBlock a x).disp = s.disp := rfl
@[simp] theorem loadBlock_mem (a : Nat) (x : RegIx) : (s.loadBlock a x).mem = s.mem := rfl
@[simp] theorem loadBlock_status (a : Nat) (x : RegIx) : (s.loadBlock a x).status = s.status := rfl
@[simp] theorem loadBlock_cause (a : Nat) (x : RegIx) : (s.loadBlock a x).cause = s.cause := rfl
@[simp] theorem loadBlock_cfg (a : Nat) (x : RegIx) : (s.loadBlock a x).cfg = s.cfg := rfl
@[simp] theorem loadBlock_inputs (a : Nat) (x : RegIx) : (s.loadBlock a x).inputs = s.inputs := rfl
@[simp] theorem loadBlock_inputNo (a : Nat) (x : RegIx) :
    (s.loadBlock a x).inputNo = s.inputNo := rfl

@[simp] theorem push_v (a : Word) (h : s.sp.val < 16) : (s.push a h).v = s.v := rfl
@[simp] theorem push_i (a : Word) (h : s.sp.val < 16) : (s.push a h).i = s.i := rfl
@[simp] theorem push_pc (a : Word) (h : s.sp.val < 16) : (s.push a h).pc = s.pc := rfl
@[simp] theorem push_stack (a : Word) (h : s.sp.val < 16) :
    (s.push a h).stack = s.stack.set s.sp.val a h := rfl
@[simp] theorem push_dt (a : Word) (h : s.sp.val < 16) : (s.push a h).dt = s.dt := rfl
@[simp] theorem push_st (a : Word) (h : s.sp.val < 16) : (s.push a h).st = s.st := rfl
@[simp] theorem push_disp (a : Word) (h : s.sp.val < 16) : (s.push a h).disp = s.disp := rfl
@[simp] theorem push_mem (a : Word) (h : s.sp.val < 16) : (s.push a h).mem = s.mem := rfl
@[simp] theorem push_status (a : Word) (h : s.sp.val < 16) : (s.push a h).status = s.status := rfl
@[simp] theorem push_cause (a : Word) (h : s.sp.val < 16) : (s.push a h).cause = s.cause := rfl
@[simp] theorem push_cfg (a : Word) (h : s.sp.val < 16) : (s.push a h).cfg = s.cfg := rfl
@[simp] theorem push_inputs (a : Word) (h : s.sp.val < 16) : (s.push a h).inputs = s.inputs := rfl
@[simp] theorem push_inputNo (a : Word) (h : s.sp.val < 16) :
    (s.push a h).inputNo = s.inputNo := rfl

@[simp] theorem pop_v : (s.pop).v = s.v := rfl
@[simp] theorem pop_i : (s.pop).i = s.i := rfl
@[simp] theorem pop_pc : (s.pop).pc = s.pc := rfl
@[simp] theorem pop_stack : (s.pop).stack = s.stack := rfl
@[simp] theorem pop_dt : (s.pop).dt = s.dt := rfl
@[simp] theorem pop_st : (s.pop).st = s.st := rfl
@[simp] theorem pop_disp : (s.pop).disp = s.disp := rfl
@[simp] theorem pop_mem : (s.pop).mem = s.mem := rfl
@[simp] theorem pop_status : (s.pop).status = s.status := rfl
@[simp] theorem pop_cause : (s.pop).cause = s.cause := rfl
@[simp] theorem pop_cfg : (s.pop).cfg = s.cfg := rfl
@[simp] theorem pop_inputs : (s.pop).inputs = s.inputs := rfl
@[simp] theorem pop_inputNo : (s.pop).inputNo = s.inputNo := rfl

@[simp] theorem tick_v : (s.tick).v = s.v := rfl
@[simp] theorem tick_i : (s.tick).i = s.i := rfl
@[simp] theorem tick_pc : (s.tick).pc = s.pc := rfl
@[simp] theorem tick_stack : (s.tick).stack = s.stack := rfl
@[simp] theorem tick_sp : (s.tick).sp = s.sp := rfl
@[simp] theorem tick_dt : (s.tick).dt = tickCounter s.dt := rfl
@[simp] theorem tick_st : (s.tick).st = tickCounter s.st := rfl
@[simp] theorem tick_disp : (s.tick).disp = s.disp := rfl
@[simp] theorem tick_mem : (s.tick).mem = s.mem := rfl
@[simp] theorem tick_status : (s.tick).status = s.status := rfl
@[simp] theorem tick_cause : (s.tick).cause = s.cause := rfl
@[simp] theorem tick_cfg : (s.tick).cfg = s.cfg := rfl
@[simp] theorem tick_inputs : (s.tick).inputs = s.inputs := rfl
@[simp] theorem tick_inputNo : (s.tick).inputNo = s.inputNo := rfl

@[simp] theorem halt_v (c : Cause) : (s.halt c).v = s.v := rfl
@[simp] theorem halt_i (c : Cause) : (s.halt c).i = s.i := rfl
@[simp] theorem halt_pc (c : Cause) : (s.halt c).pc = s.pc := rfl
@[simp] theorem halt_stack (c : Cause) : (s.halt c).stack = s.stack := rfl
@[simp] theorem halt_sp (c : Cause) : (s.halt c).sp = s.sp := rfl
@[simp] theorem halt_dt (c : Cause) : (s.halt c).dt = s.dt := rfl
@[simp] theorem halt_st (c : Cause) : (s.halt c).st = s.st := rfl
@[simp] theorem halt_disp (c : Cause) : (s.halt c).disp = s.disp := rfl
@[simp] theorem halt_mem (c : Cause) : (s.halt c).mem = s.mem := rfl
@[simp] theorem halt_status (c : Cause) : (s.halt c).status = .halted := rfl
@[simp] theorem halt_cause (c : Cause) : (s.halt c).cause = c := rfl
@[simp] theorem halt_cfg (c : Cause) : (s.halt c).cfg = s.cfg := rfl
@[simp] theorem halt_inputs (c : Cause) : (s.halt c).inputs = s.inputs := rfl
@[simp] theorem halt_inputNo (c : Cause) : (s.halt c).inputNo = s.inputNo := rfl

@[simp] theorem consumeInput_v : (s.consumeInput).v = s.v := rfl
@[simp] theorem consumeInput_i : (s.consumeInput).i = s.i := rfl
@[simp] theorem consumeInput_pc : (s.consumeInput).pc = s.pc := rfl
@[simp] theorem consumeInput_stack : (s.consumeInput).stack = s.stack := rfl
@[simp] theorem consumeInput_sp : (s.consumeInput).sp = s.sp := rfl
@[simp] theorem consumeInput_dt : (s.consumeInput).dt = s.dt := rfl
@[simp] theorem consumeInput_st : (s.consumeInput).st = s.st := rfl
@[simp] theorem consumeInput_disp : (s.consumeInput).disp = s.disp := rfl
@[simp] theorem consumeInput_mem : (s.consumeInput).mem = s.mem := rfl
@[simp] theorem consumeInput_status : (s.consumeInput).status = s.status := rfl
@[simp] theorem consumeInput_cause : (s.consumeInput).cause = s.cause := rfl
@[simp] theorem consumeInput_cfg : (s.consumeInput).cfg = s.cfg := rfl
@[simp] theorem consumeInput_inputs : (s.consumeInput).inputs = s.inputs.tail := rfl
@[simp] theorem consumeInput_inputNo : (s.consumeInput).inputNo = s.inputNo + 1 := rfl

@[simp] theorem withInput_v (inp : StepInput) : (s.withInput inp).v = s.v := rfl
@[simp] theorem withInput_i (inp : StepInput) : (s.withInput inp).i = s.i := rfl
@[simp] theorem withInput_pc (inp : StepInput) : (s.withInput inp).pc = s.pc := rfl
@[simp] theorem withInput_stack (inp : StepInput) : (s.withInput inp).stack = s.stack := rfl
@[simp] theorem withInput_sp (inp : StepInput) : (s.withInput inp).sp = s.sp := rfl
@[simp] theorem withInput_dt (inp : StepInput) : (s.withInput inp).dt = s.dt := rfl
@[simp] theorem withInput_st (inp : StepInput) : (s.withInput inp).st = s.st := rfl
@[simp] theorem withInput_disp (inp : StepInput) : (s.withInput inp).disp = s.disp := rfl
@[simp] theorem withInput_mem (inp : StepInput) : (s.withInput inp).mem = s.mem := rfl
@[simp] theorem withInput_status (inp : StepInput) : (s.withInput inp).status = s.status := rfl
@[simp] theorem withInput_cause (inp : StepInput) : (s.withInput inp).cause = s.cause := rfl
@[simp] theorem withInput_cfg (inp : StepInput) : (s.withInput inp).cfg = s.cfg := rfl
@[simp] theorem withInput_inputs (inp : StepInput) :
    (s.withInput inp).inputs = inp :: s.inputs := rfl
@[simp] theorem withInput_inputNo (inp : StepInput) : (s.withInput inp).inputNo = s.inputNo := rfl

@[simp] theorem writeFlagged_i (x : RegIx) (o : AluOut) : (s.writeFlagged x o).i = s.i := rfl
@[simp] theorem writeFlagged_pc (x : RegIx) (o : AluOut) : (s.writeFlagged x o).pc = s.pc := rfl
@[simp] theorem writeFlagged_stack (x : RegIx) (o : AluOut) :
    (s.writeFlagged x o).stack = s.stack := rfl
@[simp] theorem writeFlagged_sp (x : RegIx) (o : AluOut) : (s.writeFlagged x o).sp = s.sp := rfl
@[simp] theorem writeFlagged_dt (x : RegIx) (o : AluOut) : (s.writeFlagged x o).dt = s.dt := rfl
@[simp] theorem writeFlagged_st (x : RegIx) (o : AluOut) : (s.writeFlagged x o).st = s.st := rfl
@[simp] theorem writeFlagged_disp (x : RegIx) (o : AluOut) :
    (s.writeFlagged x o).disp = s.disp := rfl
@[simp] theorem writeFlagged_mem (x : RegIx) (o : AluOut) : (s.writeFlagged x o).mem = s.mem := rfl
@[simp] theorem writeFlagged_status (x : RegIx) (o : AluOut) :
    (s.writeFlagged x o).status = s.status := rfl
@[simp] theorem writeFlagged_cause (x : RegIx) (o : AluOut) :
    (s.writeFlagged x o).cause = s.cause := rfl
@[simp] theorem writeFlagged_cfg (x : RegIx) (o : AluOut) : (s.writeFlagged x o).cfg = s.cfg := rfl
@[simp] theorem writeFlagged_inputs (x : RegIx) (o : AluOut) :
    (s.writeFlagged x o).inputs = s.inputs := rfl
@[simp] theorem writeFlagged_inputNo (x : RegIx) (o : AluOut) :
    (s.writeFlagged x o).inputNo = s.inputNo := rfl

@[simp] theorem push_sp (a : Word) (h : s.sp.val < 16) : (s.push a h).sp.val = s.sp.val + 1 := rfl
@[simp] theorem pop_sp : s.pop.sp.val = s.sp.val - 1 := rfl

/-- `rst` gives every register the value of `State.reset` (R350). -/
theorem rst_registers : s.rst.v = State.reset.v ∧ s.rst.i = State.reset.i ∧
    s.rst.pc = State.reset.pc ∧ s.rst.stack = State.reset.stack ∧ s.rst.sp = State.reset.sp ∧
    s.rst.dt = State.reset.dt ∧ s.rst.st = State.reset.st ∧ s.rst.disp = State.reset.disp ∧
    s.rst.status = State.reset.status ∧ s.rst.cause = State.reset.cause :=
  ⟨rfl, rfl, rfl, rfl, rfl, rfl, rfl, rfl, rfl, rfl⟩

@[simp] theorem rst_mem : s.rst.mem = s.mem := rfl
@[simp] theorem rst_cfg : s.rst.cfg = s.cfg := rfl
@[simp] theorem rst_inputs : s.rst.inputs = s.inputs := rfl
@[simp] theorem rst_inputNo : s.rst.inputNo = s.inputNo := rfl

/-- A conditional skip changes `PC` alone (R170). -/
theorem skipIf_eq (c : Bool) : s.skipIf c = { s with pc := if c then s.pc + 2 else s.pc } := by
  cases c <;> rfl

end Sys2Proof.Machine
end

