-- ==== Sys2Proof/Laws/Memory.lean ====
section
/-!
SUPPORT. The laws of memory: what a read gives after a write, and that every memory operation keeps
the canonical form (20_memory.md R70, R71, R80).
-/

namespace Sys2Proof.Machine

/-! ### Read after write -/

theorem Memory.read_insert (m : Memory) (a b : Nat) (v : Byte) (h : ∀ c ∈ m, c.1 ≠ a) :
    (m.insert a v).read b = if b = a then v else m.read b := by
  induction m with
  | nil => simp only [Memory.insert, Memory.read]
  | cons c m ih =>
    obtain ⟨ca, cv⟩ := c
    have hca : ca ≠ a := h (ca, cv) (by simp)
    have ih := ih fun c hc => h c (by simp [hc])
    simp only [Memory.insert]
    split
    · simp only [Memory.read]
    · simp only [Memory.read, ih]
      by_cases hb : b = ca
      · simp [hb, hca]
      · simp [hb]

theorem Memory.read_erase (m : Memory) (a b : Nat) :
    (m.erase a).read b = if b = a then Memory.background b else m.read b := by
  induction m with
  | nil => simp [Memory.erase, Memory.read]
  | cons c m ih =>
    obtain ⟨ca, cv⟩ := c
    simp only [Memory.erase, List.filter_cons] at ih ⊢
    by_cases hca : ca = a
    · simp only [hca, bne_self_eq_false, Bool.false_eq_true, if_false, ih, Memory.read]
      by_cases hb : b = a <;> simp [hb]
    · simp only [bne_iff_ne, ne_eq, hca, not_false_eq_true, if_true, Memory.read, ih]
      by_cases hb : b = ca
      · simp [hb, hca]
      · simp [hb]

theorem Memory.not_mem_erase (m : Memory) (a : Nat) : ∀ c ∈ m.erase a, c.1 ≠ a := by
  intro c hc
  simpa [Memory.erase] using (List.mem_filter.mp hc).2

/-- A write to an address of the space gives the byte at that address and leaves every other byte
alone (R71). -/
theorem Memory.read_write (m : Memory) (a b : Nat) (v : Byte) (h : a < 4096) :
    (m.write a v).read b = if b = a then v else m.read b := by
  unfold Memory.write
  rw [if_neg (by omega)]
  split
  · next hv => rw [Memory.read_erase]; split <;> simp_all
  · rw [Memory.read_insert _ _ _ _ (Memory.not_mem_erase m a), Memory.read_erase]
    split <;> simp_all

/-- Nothing is stored outside the address space. -/
theorem Memory.write_outside (m : Memory) (a : Nat) (v : Byte) (h : 4096 ≤ a) : m.write a v = m :=
  if_pos h

/-- A write never changes a byte at another address. -/
theorem Memory.read_write_of_ne (m : Memory) (a b : Nat) (v : Byte) (h : b ≠ a) :
    (m.write a v).read b = m.read b := by
  by_cases ha : a < 4096
  · rw [Memory.read_write m a b v ha, if_neg h]
  · rw [Memory.write_outside m a v (by omega)]

/-- A run of writes gives its bytes at its addresses and leaves every other byte alone (R69). -/
theorem Memory.read_writeBytes (m : Memory) (a : Nat) (bs : List Byte) (b : Nat)
    (h : a + bs.length ≤ 4096) :
    (m.writeBytes a bs).read b =
      if a ≤ b ∧ b < a + bs.length then bs.getD (b - a) 0 else m.read b := by
  induction bs generalizing m a with
  | nil => simp [Memory.writeBytes]
  | cons x bs ih =>
    simp only [List.length_cons] at h
    rw [Memory.writeBytes, ih (m.write a x) (a + 1) (by omega),
      Memory.read_write m a b x (by omega), List.length_cons]
    by_cases hab : b = a
    · subst hab; simp
    · by_cases hin : a + 1 ≤ b ∧ b < a + 1 + bs.length
      · rw [if_pos hin, if_pos (by omega), show b - a = (b - (a + 1)) + 1 by omega,
          List.getD_cons_succ]
      · rw [if_neg hin, if_neg hab, if_neg (by omega)]

/-- A run of writes never changes a byte outside it. -/
theorem Memory.read_writeBytes_outside (m : Memory) (a : Nat) (bs : List Byte) (b : Nat)
    (h : b < a ∨ a + bs.length ≤ b) : (m.writeBytes a bs).read b = m.read b := by
  induction bs generalizing m a with
  | nil => rfl
  | cons x bs ih =>
    simp only [List.length_cons] at h
    rw [Memory.writeBytes, ih (m.write a x) (a + 1) (by omega),
      Memory.read_write_of_ne m a b x (by omega)]

@[simp] theorem readByte_writeBytes (s : State) (a : Nat) (bs : List Byte) (b : Nat)
    (h : a + bs.length ≤ 4096) :
    (s.writeBytes a bs).readByte b =
      if a ≤ b ∧ b < a + bs.length then bs.getD (b - a) 0 else s.readByte b :=
  Memory.read_writeBytes s.mem a bs b h

/-! ### The canonical form -/

theorem Memory.wfFrom_mono {m : Memory} {lo lo' : Nat} (h : lo' ≤ lo) (hm : m.wfFrom lo = true) :
    m.wfFrom lo' = true := by
  cases m with
  | nil => rfl
  | cons c m =>
    simp only [Memory.wfFrom, Bool.and_eq_true, decide_eq_true_eq] at hm ⊢
    exact ⟨⟨⟨by omega, hm.1.1.2⟩, hm.1.2⟩, hm.2⟩

theorem Memory.wfFrom_insert {m : Memory} {lo a : Nat} {v : Byte} (hm : m.wfFrom lo = true)
    (hlo : lo ≤ a) (ha : a < 4096) (hv : v ≠ Memory.background a) (hne : ∀ c ∈ m, c.1 ≠ a) :
    (m.insert a v).wfFrom lo = true := by
  induction m generalizing lo with
  | nil => simp [Memory.insert, Memory.wfFrom, hlo, ha, hv]
  | cons c m ih =>
    obtain ⟨ca, cv⟩ := c
    have hca : ca ≠ a := hne (ca, cv) (by simp)
    simp only [Memory.wfFrom, Bool.and_eq_true, decide_eq_true_eq] at hm
    obtain ⟨⟨⟨h1, h2⟩, h3⟩, h4⟩ := hm
    simp only [Memory.insert]
    split
    · simp only [Memory.wfFrom, Bool.and_eq_true, decide_eq_true_eq]
      exact ⟨⟨⟨hlo, ha⟩, hv⟩, ⟨⟨by omega, h2⟩, h3⟩, h4⟩
    · simp only [Memory.wfFrom, Bool.and_eq_true, decide_eq_true_eq]
      exact ⟨⟨⟨h1, h2⟩, h3⟩, ih h4 (by omega) fun c hc => hne c (by simp [hc])⟩

theorem Memory.wfFrom_erase {m : Memory} {lo : Nat} (a : Nat) (hm : m.wfFrom lo = true) :
    (m.erase a).wfFrom lo = true := by
  induction m generalizing lo with
  | nil => rfl
  | cons c m ih =>
    obtain ⟨ca, cv⟩ := c
    simp only [Memory.wfFrom, Bool.and_eq_true, decide_eq_true_eq] at hm
    obtain ⟨⟨⟨h1, h2⟩, h3⟩, h4⟩ := hm
    simp only [Memory.erase, List.filter_cons] at ih ⊢
    split
    · simp only [Memory.wfFrom, Bool.and_eq_true, decide_eq_true_eq]
      exact ⟨⟨⟨h1, h2⟩, h3⟩, ih h4⟩
    · exact Memory.wfFrom_mono (by omega) (ih h4)

/-- A write keeps the canonical form. -/
theorem Memory.wf_write {m : Memory} (a : Nat) (v : Byte) (hm : m.wf = true) :
    (m.write a v).wf = true := by
  unfold Memory.write
  split
  · exact hm
  · split
    · exact Memory.wfFrom_erase a hm
    · next ha hv =>
      exact Memory.wfFrom_insert (Memory.wfFrom_erase a hm) (Nat.zero_le a) (by omega) hv
        (Memory.not_mem_erase m a)

/-- A run of writes keeps the canonical form. -/
theorem Memory.wf_writeBytes {m : Memory} (a : Nat) (bs : List Byte) (hm : m.wf = true) :
    (m.writeBytes a bs).wf = true := by
  induction bs generalizing m a with
  | nil => exact hm
  | cons x bs ih => exact ih (a + 1) (Memory.wf_write a x hm)

/-- Memory is in canonical form at reset. -/
theorem reset_mem_wf : State.reset.mem.wf = true := rfl

end Sys2Proof.Machine
end

