-- ==== Sys2Proof/Laws/Block.lean ====
section
/-!
SUPPORT. What the host's moves do, said once (10_state.md R41, R47), and that reset is idempotent.
-/

namespace Sys2Proof.Machine

/-- Reset after reset, a load, and a new configuration (R41). -/
@[simp] theorem rst_rst (s : State) : s.rst.rst = s.rst := rfl
@[simp] theorem rst_writeBytes_rst (s : State) (a : Nat) (bs : List Byte) :
    (s.rst.writeBytes a bs).rst = s.rst.writeBytes a bs := rfl
@[simp] theorem rst_configured (s : State) (c : Config) :
    ({ s.rst with cfg := c } : State).rst = { s.rst with cfg := c } := rfl

/-- What a move can do: every other move does not exist (R47). -/
theorem move_cases {b b' : Block} {m : HostMove} (h : b.move m = some b') :
    (m = .assertRst ∧ b' = ⟨b.state.rst, true⟩) ∨
    (b.rst = true ∧ ∃ a v, m = .load a v ∧ b' = ⟨b.state.rst.writeBytes a.toNat [v], true⟩) ∨
    (b.rst = true ∧ ∃ c, m = .configure c ∧ b' = ⟨{ b.state.rst with cfg := c }, true⟩) ∨
    (b.rst = true ∧ m = .releaseRst ∧ b.state.cfg.wellFormed = true ∧ b' = ⟨b.state.rst, false⟩) ∨
    (b.rst = false ∧ ∃ inp t, m = .step inp ∧ step (b.state.withInput inp) = .next t ∧
      b' = ⟨{ t with inputs := b.state.inputs }, false⟩) := by
  cases m with
  | assertRst => exact .inl ⟨rfl, by simpa [Block.move] using h.symm⟩
  | load a v =>
    simp only [Block.move, Block.loadPort] at h
    split at h
    · exact .inr (.inl ⟨‹_›, a, v, rfl, by simpa using h.symm⟩)
    · cases h
  | configure c =>
    simp only [Block.move, Block.configure] at h
    split at h
    · exact .inr (.inr (.inl ⟨‹_›, c, rfl, by simpa using h.symm⟩))
    · cases h
  | releaseRst =>
    simp only [Block.move, Block.release] at h
    split at h
    · rename_i hc
      rw [Bool.and_eq_true] at hc
      exact .inr (.inr (.inr (.inl ⟨hc.1, rfl, hc.2, by simpa using h.symm⟩)))
    · cases h
  | step inp =>
    simp only [Block.move, Block.stepWith] at h
    split at h
    · cases h
    · rename_i hr
      split at h
      · rename_i t ht
        exact .inr (.inr (.inr (.inr ⟨by simpa using hr, inp, t, rfl, ht, by simpa using h.symm⟩)))
      · cases h
      · cases h

/-- Moves made one list after another. -/
theorem moves_append (xs ys : List HostMove) (b : Block) :
    Block.moves (xs ++ ys) b = (Block.moves xs b).bind (Block.moves ys) := by
  induction xs generalizing b with
  | nil => rfl
  | cons m xs ih =>
    simp only [List.cons_append, Block.moves]
    cases b.move m with
    | none => rfl
    | some b' => exact ih b'

/-- Loads at ascending addresses within memory store the bytes there, and leave `rst` asserted. -/
theorem moves_loadMoves (bs : List Byte) (s : State) (a : Nat) (h : a + bs.length ≤ 4096) :
    Block.moves (loadMoves a bs) ⟨s.rst, true⟩ = some ⟨s.rst.writeBytes a bs, true⟩ := by
  induction bs generalizing a s with
  | nil => rfl
  | cons v bs ih =>
    rw [List.length_cons] at h
    have ha : (BitVec.ofNat 12 a).toNat = a := by simp; omega
    have hl : (⟨s.rst, true⟩ : Block).move (.load (BitVec.ofNat 12 a) v)
        = some ⟨(s.rst.writeBytes a [v]).rst, true⟩ := by
      simp only [Block.move, Block.loadPort, ha]; rfl
    rw [loadMoves, Block.moves, hl, Option.bind_some, ih _ _ (by omega)]
    rfl

/-- A launch fits when its font and its program do. -/
theorem fits_iff (l : LaunchPlan) :
    l.fits = true ↔ l.fontBase.toNat + 80 ≤ 0x200 ∧ l.program.length ≤ 3584 := by
  simp [LaunchPlan.fits, LaunchPlan.fontFits, LaunchPlan.programFits]

/-- `END_ADDR` of a launch that fits is not cut to 16 bits, and its configuration is legal (R356 (a)). -/
theorem launchConfig_wellFormed {l : LaunchPlan} (h : l.fits = true) :
    (launchConfig l).endAddr.toNat = 0x200 + l.program.length ∧
      (launchConfig l).wellFormed = true := by
  obtain ⟨hf, hp⟩ := (fits_iff l).1 h
  simp [launchConfig, Config.wellFormed]
  omega

/-- A launch that does not fit leaves the block in reset, with nothing loaded (R354 (3)). -/
theorem launchMoves_of_not_fits {l : LaunchPlan} (h : l.fits = false) :
    launchMoves l = [.assertRst] := by
  simp [launchMoves, h]

end Sys2Proof.Machine
end

