-- ==== Sys2Proof/Laws/Decode.lean ====
section
/-!
SUPPORT. The fields of the format words (30_encoding.md R91, R92), and that the operand types make
every instruction well formed.
-/

namespace Sys2Proof

section Fields

variable (op : BitVec 4) (x y : RegIx) (n : BitVec 4) (kk : Byte) (nnn : Addr)

theorem opField_wordNNN : opField (wordNNN op nnn) = op := by
  unfold opField wordNNN
  refine BitVec.eq_of_getLsbD_eq fun i hi => ?_
  interval_cases i <;> simp only [BitVec.getLsbD_extractLsb', BitVec.getLsbD_append] <;> rfl

theorem nnnField_wordNNN : nnnField (wordNNN op nnn) = nnn := by
  unfold nnnField wordNNN
  refine BitVec.eq_of_getLsbD_eq fun i hi => ?_
  interval_cases i <;> simp only [BitVec.getLsbD_extractLsb', BitVec.getLsbD_append] <;> rfl

theorem opField_wordXKK : opField (wordXKK op x kk) = op := by
  unfold opField wordXKK
  refine BitVec.eq_of_getLsbD_eq fun i hi => ?_
  interval_cases i <;> simp only [BitVec.getLsbD_extractLsb', BitVec.getLsbD_append] <;> rfl

theorem xField_wordXKK : xField (wordXKK op x kk) = x := by
  unfold xField wordXKK
  refine BitVec.eq_of_getLsbD_eq fun i hi => ?_
  interval_cases i <;> simp only [BitVec.getLsbD_extractLsb', BitVec.getLsbD_append] <;> rfl

theorem kkField_wordXKK : kkField (wordXKK op x kk) = kk := by
  unfold kkField wordXKK
  refine BitVec.eq_of_getLsbD_eq fun i hi => ?_
  interval_cases i <;> simp only [BitVec.getLsbD_extractLsb', BitVec.getLsbD_append] <;> rfl

theorem opField_wordXYN : opField (wordXYN op x y n) = op := by
  unfold opField wordXYN
  refine BitVec.eq_of_getLsbD_eq fun i hi => ?_
  interval_cases i <;> simp only [BitVec.getLsbD_extractLsb', BitVec.getLsbD_append] <;> rfl

theorem xField_wordXYN : xField (wordXYN op x y n) = x := by
  unfold xField wordXYN
  refine BitVec.eq_of_getLsbD_eq fun i hi => ?_
  interval_cases i <;> simp only [BitVec.getLsbD_extractLsb', BitVec.getLsbD_append] <;> rfl

theorem yField_wordXYN : yField (wordXYN op x y n) = y := by
  unfold yField wordXYN
  refine BitVec.eq_of_getLsbD_eq fun i hi => ?_
  interval_cases i <;> simp only [BitVec.getLsbD_extractLsb', BitVec.getLsbD_append] <;> rfl

theorem nField_wordXYN : nField (wordXYN op x y n) = n := by
  unfold nField wordXYN
  refine BitVec.eq_of_getLsbD_eq fun i hi => ?_
  interval_cases i <;> simp only [BitVec.getLsbD_extractLsb', BitVec.getLsbD_append] <;> rfl

/-- The mask of the formats `NNN`, `XKK`, `XYN` keeps the family alone (R96). -/
theorem wordNNN_and_family : wordNNN op nnn &&& 0xF000 = wordNNN op 0 := by
  unfold wordNNN
  refine BitVec.eq_of_getLsbD_eq fun i hi => ?_
  interval_cases i <;> simp only [BitVec.getLsbD_and, BitVec.getLsbD_append] <;> simp

theorem wordXKK_and_family : wordXKK op x kk &&& 0xF000 = wordXKK op 0 0 := by
  unfold wordXKK
  refine BitVec.eq_of_getLsbD_eq fun i hi => ?_
  interval_cases i <;> simp only [BitVec.getLsbD_and, BitVec.getLsbD_append] <;> simp

theorem wordXYN_and_family : wordXYN op x y n &&& 0xF000 = wordXYN op 0 0 0 := by
  unfold wordXYN
  refine BitVec.eq_of_getLsbD_eq fun i hi => ?_
  interval_cases i <;> simp only [BitVec.getLsbD_and, BitVec.getLsbD_append] <;> simp

/-- The mask of the format `XY` keeps the family and the low nibble (R96). -/
theorem wordXYN_and_nibble : wordXYN op x y n &&& 0xF00F = wordXYN op 0 0 n := by
  unfold wordXYN
  refine BitVec.eq_of_getLsbD_eq fun i hi => ?_
  interval_cases i <;> simp only [BitVec.getLsbD_and, BitVec.getLsbD_append] <;> simp

/-- The mask of the format `X` keeps the family and the low byte (R96). -/
theorem wordXKK_and_byte : wordXKK op x kk &&& 0xF0FF = wordXKK op 0 kk := by
  unfold wordXKK
  refine BitVec.eq_of_getLsbD_eq fun i hi => ?_
  interval_cases i <;> simp only [BitVec.getLsbD_and, BitVec.getLsbD_append] <;> simp

end Fields

/-- The two bytes of a word give the word back (R67). -/
@[simp] theorem wordOfBytes_bytes (w : Word) : wordOfBytes (highByte w) (lowByte w) = w := by
  unfold wordOfBytes highByte lowByte
  refine BitVec.eq_of_getLsbD_eq fun i hi => ?_
  interval_cases i <;> simp only [BitVec.getLsbD_extractLsb', BitVec.getLsbD_append] <;> rfl

@[simp] theorem highByte_wordOfBytes (hi lo : Byte) : highByte (wordOfBytes hi lo) = hi := by
  unfold wordOfBytes highByte
  refine BitVec.eq_of_getLsbD_eq fun i hi => ?_
  interval_cases i <;> simp only [BitVec.getLsbD_extractLsb', BitVec.getLsbD_append] <;> rfl

@[simp] theorem lowByte_wordOfBytes (hi lo : Byte) : lowByte (wordOfBytes hi lo) = lo := by
  unfold wordOfBytes lowByte
  refine BitVec.eq_of_getLsbD_eq fun i hi => ?_
  interval_cases i <;> simp only [BitVec.getLsbD_extractLsb', BitVec.getLsbD_append] <;> rfl

theorem toNat_lt_16 (x : BitVec 4) : x.toNat < 16 := x.isLt
theorem toNat_lt_256 (b : Byte) : b.toNat < 256 := b.isLt
theorem toNat_lt_4096 (a : Addr) : a.toNat < 4096 := a.isLt

/-- The operand types carry the widths of R91: every instruction is well formed. -/
theorem instr_wellFormed (i : Instr) : i.wellFormed = true := by
  cases i <;>
    simp [Instr.wellFormed, Instr.format, Instr.operands, operandsFit, toNat_lt_16, toNat_lt_256,
      toNat_lt_4096]

/-- The table's format of an instruction is its format (R92, R96). -/
theorem row_format (i : Instr) : i.row.format = i.format := by cases i <;> rfl

end Sys2Proof
end

