-- ==== Sys2Proof/Laws/Ops.lean ====
section
/-!
SUPPORT. One lemma per shared operation that says what it gives, for later proofs to cite.
-/

namespace Sys2Proof.Machine

/-! ### Registers -/

/-- A register after a write: the value written, or what it held (R20). -/
@[simp] theorem readV_writeV (s : State) (r q : RegIx) (b : Byte) :
    (s.writeV r b).readV q = if q = r then b else s.readV q := by
  unfold State.readV State.writeV
  by_cases h : q = r
  · subst h; simp
  · have hn : r.toNat ≠ q.toNat := fun e => h (BitVec.eq_of_toNat_eq e.symm)
    simp [h, hn]

/-- After flag and result: the result in `Vx`, the flag in `VF` unless `x = F`, the others kept (R203,
R228). -/
theorem readV_writeFlagged (s : State) (x q : RegIx) (o : AluOut) :
    (s.writeFlagged x o).readV q =
      if q = x then o.result else if q = 0xF then flagByte o.flag else s.readV q := by
  simp [State.writeFlagged]

/-- The registers after a block load (R256). -/
theorem readV_loadBlock (s : State) (a : Nat) (x q : RegIx) :
    (s.loadBlock a x).readV q =
      if q.toNat ≤ x.toNat then s.readByte (a + q.toNat) else s.readV q := by
  simp [State.readV, State.loadBlock]

/-- Register reads after an update that does not touch `V`. -/
theorem readV_of_v_eq {s t : State} (h : t.v = s.v) (q : RegIx) : t.readV q = s.readV q := by
  unfold State.readV; simp only [h]

/-- Byte reads after an update that does not touch `MEM`. -/
theorem readByte_of_mem_eq {s t : State} (h : t.mem = s.mem) (a : Nat) :
    t.readByte a = s.readByte a := by
  unfold State.readByte; rw [h]

/-- The length of the register block (R252). -/
@[simp] theorem length_regBlock (s : State) (x : RegIx) : (s.regBlock x).length = x.toNat + 1 := by
  simp [State.regBlock]

/-- The bytes of the register block (R252). -/
theorem getD_regBlock (s : State) (x : RegIx) (k : RegIx) (h : k.toNat ≤ x.toNat) :
    (s.regBlock x).getD k.toNat 0 = s.readV k := by
  have hk : k.toNat < x.toNat + 1 := by omega
  simp [State.regBlock, List.getD, List.getElem?_map, List.getElem?_range hk]

/-! ### Bounds (R72) -/

theorem outOfRange_iff (a len : Nat) :
    outOfRange a len = true ↔ 0 < len ∧ 0xFFF < a + (len - 1) := by
  simp [outOfRange]

/-- A run in range ends inside the address space. -/
theorem outOfRange_eq_false_iff (a len : Nat) :
    outOfRange a len = false ↔ len = 0 ∨ a + len ≤ 4096 := by
  rw [← Bool.not_eq_true, outOfRange_iff]; omega

/-! ### The stack (R24, R25) -/

/-- The stack after a push. -/
theorem push_stack_get (s : State) (a : Word) (h : s.sp.val < 16) (k : Fin 16) :
    (s.push a h).stack[k] = if k.val = s.sp.val then a else s.stack[k] := by
  by_cases hk : s.sp.val = k.val
  · simp [hk]
  · simp [hk, Ne.symm hk]

/-- A pop gives back what was pushed (R176, R172). -/
theorem top_push (s : State) (a : Word) (h : s.sp.val < 16) (h' : 0 < (s.push a h).sp.val) :
    (s.push a h).top h' = a := by
  simp [State.top, State.push]

/-! ### The timers (R322) -/

/-- A tick takes 1 from a counter and stops at 0. -/
@[simp] theorem toNat_tickCounter (t : Byte) : (tickCounter t).toNat = t.toNat - 1 := by
  unfold tickCounter
  by_cases h : t = 0
  · subst h; rfl
  · rw [if_pos h]
    have h1 : t.toNat ≠ 0 := fun e => h (BitVec.eq_of_toNat_eq e)
    have h2 := t.isLt
    rw [BitVec.toNat_sub, show (1 : Byte).toNat = 1 from rfl]
    omega

/-! ### Keys (R282) -/

/-- With no key pressed there is no least key. -/
theorem lowestKey_eq_none_iff (keys : BitVec 16) : lowestKey keys = none ↔ keys = 0 := by
  unfold lowestKey
  rw [List.find?_eq_none]
  constructor
  · intro h
    refine BitVec.eq_of_getLsbD_eq fun i hi => ?_
    simpa using h i (List.mem_range.mpr hi)
  · rintro rfl k -
    simp

/-- The least pressed key. -/
theorem lowestKey_eq_some {keys : BitVec 16} {k : Nat} (hk : k < 16)
    (hdown : keys.getLsbD k = true) (hleast : ∀ j, j < k → keys.getLsbD j = false) :
    lowestKey keys = some k := by
  unfold lowestKey
  rw [List.find?_range_eq_some]
  exact ⟨by simpa using hdown, by simpa using hk, fun j hj => by simpa using hleast j hj⟩

/-! ### The fetch (R121 to R123) -/

/-- No test halts the engine before the fetch exactly when all three pass. -/
theorem preFetchHalt_eq_none_iff (s : State) :
    s.preFetchHalt = none ↔
      s.pc ≠ s.cfg.endAddr ∧ s.pc.toNat < 0x0FFF ∧ s.pc.toNat % 2 = 0 := by
  unfold State.preFetchHalt
  by_cases h1 : s.pc = s.cfg.endAddr
  · rw [if_pos h1]; simp [h1]
  · rw [if_neg h1]
    by_cases h2 : 0x0FFF ≤ s.pc.toNat
    · rw [if_pos h2]; simp; omega
    · rw [if_neg h2]
      by_cases h3 : s.pc.toNat % 2 = 1
      · rw [if_pos h3]; simp; omega
      · rw [if_neg h3]; simp only [ne_eq, h1, not_false_eq_true, true_and, true_iff]; omega

/-- The three causes before the fetch. -/
theorem preFetchHalt_cases {s : State} {c : Cause} (h : s.preFetchHalt = some c) :
    (c = .endReached ∧ s.pc = s.cfg.endAddr) ∨
    (c = .fetchOutOfBounds ∧ s.pc ≠ s.cfg.endAddr ∧ 0x0FFF ≤ s.pc.toNat) ∨
    (c = .pcMisaligned ∧ s.pc ≠ s.cfg.endAddr ∧ s.pc.toNat < 0x0FFF ∧ s.pc.toNat % 2 = 1) := by
  unfold State.preFetchHalt at h
  split at h
  · simp_all
  · split at h
    · simp_all
    · split at h
      · simp_all
      · cases h

end Sys2Proof.Machine
end

