-- ==== Sys2Proof/Laws/Display.lean ====
section
/-!
SUPPORT. What the display operations give, pixel by pixel (41_display.md).
-/

namespace Sys2Proof.Machine

/-- A pixel after one pixel has been inverted. -/
@[simp] theorem get_flip (d : Display) (y y' : Fin 32) (x x' : Fin 64) :
    (d.flip y x).get y' x' = if y' = y ∧ x' = x then !d.get y x else d.get y' x' := by
  unfold Display.flip Display.get
  by_cases hy : y' = y
  · subst hy
    by_cases hx : x' = x
    · subst hx; simp
    · have : x.val ≠ x'.val := fun e => hx (Fin.ext e.symm)
      simp [hx, this]
  · have : y.val ≠ y'.val := fun e => hy (Fin.ext e.symm)
    simp [hy, this]

@[simp] theorem get_blank (y : Fin 32) (x : Fin 64) : Display.blank.get y x = false := by
  simp [Display.get, Display.blank]

/-- Two displays with the same pixels are the same. -/
theorem display_ext {d e : Display} (h : ∀ y x, d.get y x = e.get y x) : d = e := by
  ext y hy x hx
  exact h ⟨y, hy⟩ ⟨x, hx⟩

@[simp] theorem plot_disp (c : Canvas) (yy : Fin 32) (xx : Fin 64) :
    (c.plot yy xx).disp = c.disp.flip yy xx := rfl

@[simp] theorem plot_collision (c : Canvas) (yy : Fin 32) (xx : Fin 64) :
    (c.plot yy xx).collision = (c.collision || c.disp.get yy xx) := rfl

/-- Plotting a list of pixels in order. -/
def Canvas.plotAll (c : Canvas) (pixels : List (Fin 32 × Fin 64)) : Canvas :=
  pixels.foldl (fun c p => c.plot p.1 p.2) c

/-- Plotting distinct pixels inverts exactly those (R155: "each pixel is touched at most once"). -/
theorem get_plotAll (c : Canvas) (pixels : List (Fin 32 × Fin 64)) (hnd : pixels.Nodup)
    (y : Fin 32) (x : Fin 64) :
    (c.plotAll pixels).disp.get y x =
      if (y, x) ∈ pixels then !c.disp.get y x else c.disp.get y x := by
  induction pixels generalizing c with
  | nil => simp [Canvas.plotAll]
  | cons p ps ih =>
    obtain ⟨hp, hps⟩ := List.nodup_cons.mp hnd
    rw [show c.plotAll (p :: ps) = (c.plot p.1 p.2).plotAll ps from rfl, ih _ hps, plot_disp,
      get_flip]
    by_cases he : (y, x) = p
    · subst he; simp [hp]
    · have he' : ¬ (y = p.1 ∧ x = p.2) := fun h => he (Prod.ext h.1 h.2)
      simp [he, he']

/-- Plotting distinct pixels collides exactly when one of them was set (R156). -/
theorem collision_plotAll (c : Canvas) (pixels : List (Fin 32 × Fin 64)) (hnd : pixels.Nodup) :
    (c.plotAll pixels).collision = (c.collision || pixels.any fun p => c.disp.get p.1 p.2) := by
  induction pixels generalizing c with
  | nil => simp [Canvas.plotAll]
  | cons p ps ih =>
    obtain ⟨hp, hps⟩ := List.nodup_cons.mp hnd
    rw [show c.plotAll (p :: ps) = (c.plot p.1 p.2).plotAll ps from rfl, ih _ hps, plot_collision,
      plot_disp, List.any_cons, Bool.or_assoc]
    congr 2
    rw [Bool.eq_iff_iff, List.any_eq_true, List.any_eq_true]
    refine exists_congr fun q => and_congr_right fun hq => ?_
    have hne : ¬ (q.1 = p.1 ∧ q.2 = p.2) := fun h => hp (Prod.ext h.1 h.2 ▸ hq)
    rw [get_flip, if_neg hne]

/-- The screen row of a sprite row (R155). -/
theorem screenRow_eq_some_iff (vwrap : Bool) (a : Nat) (yy : Fin 32) (h : a < 64) :
    screenRow vwrap a = some yy ↔ a = yy.val ∨ (vwrap = true ∧ a = yy.val + 32) := by
  unfold screenRow
  have hyy := yy.isLt
  split
  · constructor
    · intro e; cases e; exact .inl rfl
    · rintro (e | ⟨-, e⟩)
      · simp [e]
      · omega
  · split
    · next hv =>
      simp only [Option.some.injEq, hv, true_and, Fin.ext_iff, Fin.val_ofNat]
      omega
    · next hv => simp [hv]; omega

end Sys2Proof.Machine
end

