-- ==== Sys2Proof/Laws/Exec.lean ====
section
/-!
SUPPORT. What every instruction has in common: it answers a next state, and it either keeps `STATUS` and
`CAUSE` or is a halt (60_exceptions.md R310).
-/

namespace Sys2Proof.Machine

/-- Every instruction answers a next state, a fault of the program included (R310; log 4). -/
theorem exec_answers_next (i : Instr) (s : State) : ∃ t, exec i s = .next t := by
  cases i <;> simp only [exec]
  case ret => unfold execReturn raise; split <;> exact ⟨_, rfl⟩
  case call => unfold execCall raise; split <;> exact ⟨_, rfl⟩
  case draw => unfold execDraw raise; split <;> exact ⟨_, rfl⟩
  case skipKeyDown => unfold execSkipKeyDown raise; split <;> exact ⟨_, rfl⟩
  case skipKeyUp => unfold execSkipKeyUp raise; split <;> exact ⟨_, rfl⟩
  case spriteAddr => unfold execSpriteAddr raise; split <;> exact ⟨_, rfl⟩
  case bcd => unfold execBcd raise; split <;> exact ⟨_, rfl⟩
  case storeRegs => unfold execStoreRegs raise; split <;> exact ⟨_, rfl⟩
  case loadRegs => unfold execLoadRegs raise; split <;> exact ⟨_, rfl⟩
  all_goals exact ⟨_, rfl⟩

/-- An instruction keeps `STATUS` and `CAUSE`, or it halts and does nothing else (R133, R310). -/
theorem exec_keeps_status_or_halts {i : Instr} {s t : State} (h : exec i s = .next t) :
    (t.status = s.status ∧ t.cause = s.cause) ∨ ∃ c, t = s.halt c := by
  cases i <;> simp only [exec] at h
  case ret => unfold execReturn raise at h; split at h <;> cases h <;> simp
  case call => unfold execCall raise at h; split at h <;> cases h <;> simp
  case draw => unfold execDraw raise at h; split at h <;> cases h <;> simp
  case skipKeyDown =>
    unfold execSkipKeyDown raise at h; split at h <;> cases h <;> simp [skipIf_eq]
  case skipKeyUp =>
    unfold execSkipKeyUp raise at h; split at h <;> cases h <;> simp [skipIf_eq]
  case spriteAddr => unfold execSpriteAddr raise at h; split at h <;> cases h <;> simp
  case bcd => unfold execBcd raise at h; split at h <;> cases h <;> simp
  case storeRegs => unfold execStoreRegs raise at h; split at h <;> cases h <;> simp
  case loadRegs => unfold execLoadRegs raise at h; split at h <;> cases h <;> simp
  case waitKey => cases h; split <;> simp
  all_goals (cases h; simp [skipIf_eq])

end Sys2Proof.Machine
end

