-- ==== Sys2Proof/Laws/Frame.lean ====
section
/-!
SUPPORT. The frame of each shared operation: what it changes, and that it changes nothing else.
-/

namespace Sys2Proof.Machine

variable (s : State)

/-- A register write changes that register alone (R20). -/
theorem frame_writeV (x : RegIx) (b : Byte) :
    Frame { regs := [x] } s (s.writeV x b) where
  regs r hr := by
    rw [readV_writeV, if_neg (by simpa using hr)]
  i _ := rfl
  pc _ := rfl
  stack _ := ⟨rfl, fun _ => rfl⟩
  dt _ := rfl
  st _ := rfl
  disp _ _ _ := rfl
  mem _ _ := rfl
  status := rfl
  cause := rfl
  cfg := rfl
  inputs := ⟨rfl, rfl⟩

/-- A flagged write changes `Vx` and `VF` alone (R203). -/
theorem frame_writeFlagged (x : RegIx) (o : AluOut) :
    Frame { regs := [x, 0xF] } s (s.writeFlagged x o) where
  regs r hr := by
    simp only [List.mem_cons, List.not_mem_nil, or_false, not_or] at hr
    rw [readV_writeFlagged, if_neg hr.1, if_neg hr.2]
  i _ := rfl
  pc _ := rfl
  stack _ := ⟨rfl, fun _ => rfl⟩
  dt _ := rfl
  st _ := rfl
  disp _ _ _ := rfl
  mem _ _ := rfl
  status := rfl
  cause := rfl
  cfg := rfl
  inputs := ⟨rfl, rfl⟩

/-- A block load changes `V0` to `Vx` alone (R256). -/
theorem frame_loadBlock (a : Nat) (x : RegIx) :
    Frame { regs := (List.range (x.toNat + 1)).map (BitVec.ofNat 4) } s (s.loadBlock a x) where
  regs r hr := by
    rw [readV_loadBlock, if_neg]
    intro hle
    exact hr (List.mem_map.mpr ⟨r.toNat, List.mem_range.mpr (by omega), by simp⟩)
  i _ := rfl
  pc _ := rfl
  stack _ := ⟨rfl, fun _ => rfl⟩
  dt _ := rfl
  st _ := rfl
  disp _ _ _ := rfl
  mem _ _ := rfl
  status := rfl
  cause := rfl
  cfg := rfl
  inputs := ⟨rfl, rfl⟩

/-- A write of `I` changes `I` alone (R22). -/
theorem frame_writeI (a : Word) :
    Frame { i := true } s (s.writeI a) where
  regs _ _ := rfl
  i h := by cases h
  pc _ := rfl
  stack _ := ⟨rfl, fun _ => rfl⟩
  dt _ := rfl
  st _ := rfl
  disp _ _ _ := rfl
  mem _ _ := rfl
  status := rfl
  cause := rfl
  cfg := rfl
  inputs := ⟨rfl, rfl⟩

/-- A transfer changes `PC` alone (R170). -/
theorem frame_setPc (a : Word) :
    Frame { pc := true } s (s.setPc a) where
  regs _ _ := rfl
  i _ := rfl
  pc h := by cases h
  stack _ := ⟨rfl, fun _ => rfl⟩
  dt _ := rfl
  st _ := rfl
  disp _ _ _ := rfl
  mem _ _ := rfl
  status := rfl
  cause := rfl
  cfg := rfl
  inputs := ⟨rfl, rfl⟩

/-- A retreat changes `PC` alone (R282). -/
theorem frame_retreatPc :
    Frame { pc := true } s (s.retreatPc) where
  regs _ _ := rfl
  i _ := rfl
  pc h := by cases h
  stack _ := ⟨rfl, fun _ => rfl⟩
  dt _ := rfl
  st _ := rfl
  disp _ _ _ := rfl
  mem _ _ := rfl
  status := rfl
  cause := rfl
  cfg := rfl
  inputs := ⟨rfl, rfl⟩

/-- A write of `DT` changes `DT` alone (R286). -/
theorem frame_writeDt (b : Byte) :
    Frame { dt := true } s (s.writeDt b) where
  regs _ _ := rfl
  i _ := rfl
  pc _ := rfl
  stack _ := ⟨rfl, fun _ => rfl⟩
  dt h := by cases h
  st _ := rfl
  disp _ _ _ := rfl
  mem _ _ := rfl
  status := rfl
  cause := rfl
  cfg := rfl
  inputs := ⟨rfl, rfl⟩

/-- A write of `ST` changes `ST` alone (R288). -/
theorem frame_writeSt (b : Byte) :
    Frame { st := true } s (s.writeSt b) where
  regs _ _ := rfl
  i _ := rfl
  pc _ := rfl
  stack _ := ⟨rfl, fun _ => rfl⟩
  dt _ := rfl
  st h := by cases h
  disp _ _ _ := rfl
  mem _ _ := rfl
  status := rfl
  cause := rfl
  cfg := rfl
  inputs := ⟨rfl, rfl⟩

/-- A write of the display changes the display alone (R150). -/
theorem frame_writeDisp (d : Display) :
    Frame { disp := true } s (s.writeDisp d) where
  regs _ _ := rfl
  i _ := rfl
  pc _ := rfl
  stack _ := ⟨rfl, fun _ => rfl⟩
  dt _ := rfl
  st _ := rfl
  disp h := by cases h
  mem _ _ := rfl
  status := rfl
  cause := rfl
  cfg := rfl
  inputs := ⟨rfl, rfl⟩

/-- A call changes `PC` and the stack alone (R176). -/
theorem frame_push_setPc (a b : Word) (h : s.sp.val < 16) :
    Frame { pc := true, stack := true } s ((s.push a h).setPc b) where
  regs _ _ := rfl
  i _ := rfl
  pc h := by cases h
  stack h := by cases h
  dt _ := rfl
  st _ := rfl
  disp _ _ _ := rfl
  mem _ _ := rfl
  status := rfl
  cause := rfl
  cfg := rfl
  inputs := ⟨rfl, rfl⟩

/-- A return changes `PC` and the stack alone (R172). -/
theorem frame_pop_setPc (a : Word) :
    Frame { pc := true, stack := true } s (s.pop.setPc a) where
  regs _ _ := rfl
  i _ := rfl
  pc h := by cases h
  stack h := by cases h
  dt _ := rfl
  st _ := rfl
  disp _ _ _ := rfl
  mem _ _ := rfl
  status := rfl
  cause := rfl
  cfg := rfl
  inputs := ⟨rfl, rfl⟩

/-- A run of stores changes the bytes of the run alone (R71). -/
theorem frame_writeBytes (a : Nat) (bs : List Byte) :
    Frame { mem := (List.range bs.length).map (a + ·) } s (s.writeBytes a bs) where
  regs _ _ := rfl
  i _ := rfl
  pc _ := rfl
  stack _ := ⟨rfl, fun _ => rfl⟩
  dt _ := rfl
  st _ := rfl
  disp _ _ _ := rfl
  mem b hb := by
    refine Memory.read_writeBytes_outside _ _ _ _ ?_
    by_contra hin
    exact hb (List.mem_map.mpr ⟨b - a, List.mem_range.mpr (by omega), by omega⟩)
  status := rfl
  cause := rfl
  cfg := rfl
  inputs := ⟨rfl, rfl⟩

/-- A conditional skip changes `PC` alone (R170). -/
theorem frame_skipIf (c : Bool) : Frame { pc := true } s (s.skipIf c) := by
  cases c
  · exact { frame_setPc s s.pc with }
  · exact frame_setPc s (s.pc + 2)

end Sys2Proof.Machine
end

