-- ==== Sys2Proof/Laws/PerInstr.lean ====
section
/-!
SUPPORT. Facts about every instruction as syntax, one lemma per constructor.
-/

namespace Sys2Proof.Laws

/-- The encoding of the instruction selects the instruction's row of the opcode map (R96). -/
def EncodesItsRow.Statement (i : Instr) : Prop := i.row.selects (encode i) = true

theorem EncodesItsRow.clear :
    EncodesItsRow.Statement (.clear) := by
  unfold EncodesItsRow.Statement; decide

theorem EncodesItsRow.ret :
    EncodesItsRow.Statement (.ret) := by
  unfold EncodesItsRow.Statement; decide

theorem EncodesItsRow.jump (nnn : Addr) :
    EncodesItsRow.Statement (.jump nnn) := by
  unfold EncodesItsRow.Statement OpcodeRow.selects Instr.row encode
  dsimp only; rw [wordNNN_and_family]; decide

theorem EncodesItsRow.call (nnn : Addr) :
    EncodesItsRow.Statement (.call nnn) := by
  unfold EncodesItsRow.Statement OpcodeRow.selects Instr.row encode
  dsimp only; rw [wordNNN_and_family]; decide

theorem EncodesItsRow.skipEqImm (x : RegIx) (kk : Byte) :
    EncodesItsRow.Statement (.skipEqImm x kk) := by
  unfold EncodesItsRow.Statement OpcodeRow.selects Instr.row encode
  dsimp only; rw [wordXKK_and_family]; decide

theorem EncodesItsRow.skipNeImm (x : RegIx) (kk : Byte) :
    EncodesItsRow.Statement (.skipNeImm x kk) := by
  unfold EncodesItsRow.Statement OpcodeRow.selects Instr.row encode
  dsimp only; rw [wordXKK_and_family]; decide

theorem EncodesItsRow.skipEqReg (x y : RegIx) :
    EncodesItsRow.Statement (.skipEqReg x y) := by
  unfold EncodesItsRow.Statement OpcodeRow.selects Instr.row encode
  dsimp only; rw [wordXYN_and_nibble]; decide

theorem EncodesItsRow.loadImm (x : RegIx) (kk : Byte) :
    EncodesItsRow.Statement (.loadImm x kk) := by
  unfold EncodesItsRow.Statement OpcodeRow.selects Instr.row encode
  dsimp only; rw [wordXKK_and_family]; decide

theorem EncodesItsRow.addImm (x : RegIx) (kk : Byte) :
    EncodesItsRow.Statement (.addImm x kk) := by
  unfold EncodesItsRow.Statement OpcodeRow.selects Instr.row encode
  dsimp only; rw [wordXKK_and_family]; decide

theorem EncodesItsRow.move (x y : RegIx) :
    EncodesItsRow.Statement (.move x y) := by
  unfold EncodesItsRow.Statement OpcodeRow.selects Instr.row encode
  dsimp only; rw [wordXYN_and_nibble]; decide

theorem EncodesItsRow.or (x y : RegIx) :
    EncodesItsRow.Statement (.or x y) := by
  unfold EncodesItsRow.Statement OpcodeRow.selects Instr.row encode
  dsimp only; rw [wordXYN_and_nibble]; decide

theorem EncodesItsRow.and (x y : RegIx) :
    EncodesItsRow.Statement (.and x y) := by
  unfold EncodesItsRow.Statement OpcodeRow.selects Instr.row encode
  dsimp only; rw [wordXYN_and_nibble]; decide

theorem EncodesItsRow.xor (x y : RegIx) :
    EncodesItsRow.Statement (.xor x y) := by
  unfold EncodesItsRow.Statement OpcodeRow.selects Instr.row encode
  dsimp only; rw [wordXYN_and_nibble]; decide

theorem EncodesItsRow.add (x y : RegIx) :
    EncodesItsRow.Statement (.add x y) := by
  unfold EncodesItsRow.Statement OpcodeRow.selects Instr.row encode
  dsimp only; rw [wordXYN_and_nibble]; decide

theorem EncodesItsRow.sub (x y : RegIx) :
    EncodesItsRow.Statement (.sub x y) := by
  unfold EncodesItsRow.Statement OpcodeRow.selects Instr.row encode
  dsimp only; rw [wordXYN_and_nibble]; decide

theorem EncodesItsRow.shiftRight (x y : RegIx) :
    EncodesItsRow.Statement (.shiftRight x y) := by
  unfold EncodesItsRow.Statement OpcodeRow.selects Instr.row encode
  dsimp only; rw [wordXYN_and_nibble]; decide

theorem EncodesItsRow.subn (x y : RegIx) :
    EncodesItsRow.Statement (.subn x y) := by
  unfold EncodesItsRow.Statement OpcodeRow.selects Instr.row encode
  dsimp only; rw [wordXYN_and_nibble]; decide

theorem EncodesItsRow.shiftLeft (x y : RegIx) :
    EncodesItsRow.Statement (.shiftLeft x y) := by
  unfold EncodesItsRow.Statement OpcodeRow.selects Instr.row encode
  dsimp only; rw [wordXYN_and_nibble]; decide

theorem EncodesItsRow.skipNeReg (x y : RegIx) :
    EncodesItsRow.Statement (.skipNeReg x y) := by
  unfold EncodesItsRow.Statement OpcodeRow.selects Instr.row encode
  dsimp only; rw [wordXYN_and_nibble]; decide

theorem EncodesItsRow.loadAddr (nnn : Addr) :
    EncodesItsRow.Statement (.loadAddr nnn) := by
  unfold EncodesItsRow.Statement OpcodeRow.selects Instr.row encode
  dsimp only; rw [wordNNN_and_family]; decide

theorem EncodesItsRow.jumpOffset (nnn : Addr) :
    EncodesItsRow.Statement (.jumpOffset nnn) := by
  unfold EncodesItsRow.Statement OpcodeRow.selects Instr.row encode
  dsimp only; rw [wordNNN_and_family]; decide

theorem EncodesItsRow.random (x : RegIx) (kk : Byte) :
    EncodesItsRow.Statement (.random x kk) := by
  unfold EncodesItsRow.Statement OpcodeRow.selects Instr.row encode
  dsimp only; rw [wordXKK_and_family]; decide

theorem EncodesItsRow.draw (x y : RegIx) (n : BitVec 4) :
    EncodesItsRow.Statement (.draw x y n) := by
  unfold EncodesItsRow.Statement OpcodeRow.selects Instr.row encode
  dsimp only; rw [wordXYN_and_family]; decide

theorem EncodesItsRow.skipKeyDown (x : RegIx) :
    EncodesItsRow.Statement (.skipKeyDown x) := by
  unfold EncodesItsRow.Statement OpcodeRow.selects Instr.row encode
  dsimp only; rw [wordXKK_and_byte]; decide

theorem EncodesItsRow.skipKeyUp (x : RegIx) :
    EncodesItsRow.Statement (.skipKeyUp x) := by
  unfold EncodesItsRow.Statement OpcodeRow.selects Instr.row encode
  dsimp only; rw [wordXKK_and_byte]; decide

theorem EncodesItsRow.readDelay (x : RegIx) :
    EncodesItsRow.Statement (.readDelay x) := by
  unfold EncodesItsRow.Statement OpcodeRow.selects Instr.row encode
  dsimp only; rw [wordXKK_and_byte]; decide

theorem EncodesItsRow.waitKey (x : RegIx) :
    EncodesItsRow.Statement (.waitKey x) := by
  unfold EncodesItsRow.Statement OpcodeRow.selects Instr.row encode
  dsimp only; rw [wordXKK_and_byte]; decide

theorem EncodesItsRow.setDelay (x : RegIx) :
    EncodesItsRow.Statement (.setDelay x) := by
  unfold EncodesItsRow.Statement OpcodeRow.selects Instr.row encode
  dsimp only; rw [wordXKK_and_byte]; decide

theorem EncodesItsRow.setSound (x : RegIx) :
    EncodesItsRow.Statement (.setSound x) := by
  unfold EncodesItsRow.Statement OpcodeRow.selects Instr.row encode
  dsimp only; rw [wordXKK_and_byte]; decide

theorem EncodesItsRow.addAddr (x : RegIx) :
    EncodesItsRow.Statement (.addAddr x) := by
  unfold EncodesItsRow.Statement OpcodeRow.selects Instr.row encode
  dsimp only; rw [wordXKK_and_byte]; decide

theorem EncodesItsRow.spriteAddr (x : RegIx) :
    EncodesItsRow.Statement (.spriteAddr x) := by
  unfold EncodesItsRow.Statement OpcodeRow.selects Instr.row encode
  dsimp only; rw [wordXKK_and_byte]; decide

theorem EncodesItsRow.bcd (x : RegIx) :
    EncodesItsRow.Statement (.bcd x) := by
  unfold EncodesItsRow.Statement OpcodeRow.selects Instr.row encode
  dsimp only; rw [wordXKK_and_byte]; decide

theorem EncodesItsRow.storeRegs (x : RegIx) :
    EncodesItsRow.Statement (.storeRegs x) := by
  unfold EncodesItsRow.Statement OpcodeRow.selects Instr.row encode
  dsimp only; rw [wordXKK_and_byte]; decide

theorem EncodesItsRow.loadRegs (x : RegIx) :
    EncodesItsRow.Statement (.loadRegs x) := by
  unfold EncodesItsRow.Statement OpcodeRow.selects Instr.row encode
  dsimp only; rw [wordXKK_and_byte]; decide

end Sys2Proof.Laws
end

