-- ==== Sys2Proof/Laws/Step.lean ====
section
/-!
SUPPORT. What one step can do, said once (40_engine.md R120).
-/

namespace Sys2Proof.Machine

/-- The step of a halted engine (R120 phase 0). -/
theorem step_of_halted {s : State} (h : s.status = .halted) : step s = .next s := by
  unfold step; rw [h]

/-- The step that halts before the fetch (R120 phases 1 and 2). -/
theorem step_of_preFetchHalt {s : State} {c : Cause} (h : s.status = .running)
    (hc : s.preFetchHalt = some c) : step s = .next (s.halt c) := by
  unfold step; rw [h, hc]; rfl

/-- The step that fetches a word (R120 phases 3 to 8). -/
theorem step_of_fetch {s : State} (h : s.status = .running) (hn : s.preFetchHalt = none) :
    step s = executeWord s.fetchWord s.fetched := by
  unfold step; rw [h, hn]

/-- A fetched word that is an instruction runs it. -/
theorem executeWord_of_ok {w : Word} {i : Instr} (s : State) (h : decodeWord w = .ok i) :
    executeWord w s = endOfStep (exec i s) := by
  unfold executeWord; rw [h]

/-- A fetched word that is no instruction halts the engine. -/
theorem executeWord_of_error {w : Word} {e : DecodeError} (s : State) (h : decodeWord w = .error e) :
    executeWord w s = .next (s.halt .undefinedInstruction) := by
  unfold executeWord; rw [h]; rfl

/-- A step that answers a next state is one of four: of a halted engine; halted before the fetch;
halted by an undefined word; or the instruction's, with its input taken. -/
theorem step_cases {s t : State} (h : step s = .next t) :
    (s.status = .halted ∧ t = s) ∨
    (s.status = .running ∧ ∃ c, s.preFetchHalt = some c ∧ t = s.halt c) ∨
    (s.status = .running ∧ s.preFetchHalt = none ∧
      (∃ e, decodeWord s.fetchWord = .error e) ∧ t = s.fetched.halt .undefinedInstruction) ∨
    (s.status = .running ∧ s.preFetchHalt = none ∧ ∃ i u, decodeWord s.fetchWord = .ok i ∧
      exec i s.fetched = .next u ∧ t = u.consumeInput) := by
  cases hs : s.status with
  | halted => rw [step_of_halted hs] at h; cases h; exact .inl ⟨rfl, rfl⟩
  | running =>
    cases hc : s.preFetchHalt with
    | some c =>
      rw [step_of_preFetchHalt hs hc] at h; cases h; exact .inr (.inl ⟨rfl, c, rfl, rfl⟩)
    | none =>
      rw [step_of_fetch hs hc] at h
      cases hd : decodeWord s.fetchWord with
      | error e =>
        rw [executeWord_of_error _ hd] at h; cases h
        exact .inr (.inr (.inl ⟨rfl, rfl, ⟨e, rfl⟩, rfl⟩))
      | ok i =>
        rw [executeWord_of_ok _ hd] at h
        cases hx : exec i s.fetched with
        | next u =>
          rw [hx] at h; cases h; exact .inr (.inr (.inr ⟨rfl, rfl, i, u, rfl, hx, rfl⟩))
        | fault r => rw [hx] at h; cases h
        | refused r => rw [hx] at h; cases h

/-- Placing a word at `PC` makes it the word the next step fetches, where there is room for one. -/
theorem withFetchWord_fetchWord (s : State) (w : Word) (h : s.pc.toNat < 0x0FFF) :
    (s.withFetchWord 16 w.toNat).fetchWord = w := by
  have hw : w.toNat < 65536 := w.isLt
  have hread : ∀ b, (s.withFetchWord 16 w.toNat).readByte b =
      (s.writeBytes s.pc.toNat [highByte w, lowByte w]).readByte b := by
    intro b
    refine readByte_of_mem_eq ?_ b
    simp [State.withFetchWord, Nat.mod_eq_of_lt hw]
  unfold State.fetchWord
  rw [hread, hread]
  have hpc : (s.withFetchWord 16 w.toNat).pc = s.pc := rfl
  rw [hpc, readByte_writeBytes _ _ _ _ (by simp; omega), readByte_writeBytes _ _ _ _ (by simp; omega)]
  simp

end Sys2Proof.Machine
end

