-- ==== Sys2Proof/Tests/Slice0.lean ====
section
/-!
SUPPORT. Tests of this model's own work, each on fixed values: the checks of WellFormed, one written-out
word per constructor, vectors of spec/95_test_vectors.md (named after their ids; their expected values are
that file's), and for every obligation with hypotheses states and operands that meet them.
-/

namespace Sys2Proof.Tests

open Sys2Proof.Machine

/-! ### Helpers -/

/-- Does the outcome answer a next state with this property? -/
def nextIs (o : Result) (p : State → Bool) : Bool :=
  match o with
  | .next t => p t
  | .fault _ => false
  | .refused _ => false

theorem exists_of_nextIs {o : Result} {p : State → Bool} (h : nextIs o p = true) :
    ∃ t, o = .next t ∧ p t = true := by
  cases o with
  | next t => exact ⟨t, rfl, h⟩
  | fault r => cases h
  | refused r => cases h

/-- Does decoding answer this instruction? -/
def decodesTo (w : Word) (i : Instr) : Bool :=
  match decodeWord w with
  | .ok j => j == i
  | .error _ => false

/-- Does decoding reject the word as undefined, naming it? -/
def isUndefined (w : Word) : Bool :=
  match decodeWord w with
  | .ok _ => false
  | .error e => e == .undefinedInstruction w

/-- The start state of 95_test_vectors.md section 0, without the instruction word. -/
def start : State :=
  { State.reset with
    cfg := { endAddr := 0x300, shiftQuirk := .fixed, vwrap := true, fontBase := 0 }
    inputs := [⟨0, 0⟩] }

/-- The state with these registers set. -/
def regs (l : List (RegIx × Byte)) (s : State) : State := l.foldl (fun s p => s.writeV p.1 p.2) s

/-- The state with this next input. -/
def input (keys : BitVec 16) (rnd : Byte) (s : State) : State := { s with inputs := [⟨keys, rnd⟩] }

/-- The state with this `PC`. -/
def atPc (a : Word) (s : State) : State := { s with pc := a }

/-- The state with this `END_ADDR`. -/
def endAt (a : Word) (s : State) : State := { s with cfg := { s.cfg with endAddr := a } }

/-- The state with the shifts in `CLASSIC` mode. -/
def classic (s : State) : State := { s with cfg := { s.cfg with shiftQuirk := .classic } }

/-- The state with `VWRAP` false. -/
def noWrap (s : State) : State := { s with cfg := { s.cfg with vwrap := false } }

/-- The state with these timers. -/
def timers (dt st : Byte) (s : State) : State := { s with dt := dt, st := st }

/-- The state with this stack depth and every entry `a`. -/
def stacked (sp : Fin 17) (a : Word) (s : State) : State :=
  { s with sp := sp, stack := Vector.replicate 16 a }

/-- The state with these pixels inverted, given as (row, column). -/
def pixels (l : List (Fin 32 × Fin 64)) (s : State) : State :=
  { s with disp := l.foldl (fun d p => d.flip p.1 p.2) s.disp }

/-- Are exactly these pixels set, among the ones of these rows? -/
def rowsAre (rows : List (Fin 32)) (l : List (Fin 32 × Fin 64)) (t : State) : Bool :=
  rows.all fun y => (List.finRange 64).all fun x => t.disp.get y x == l.contains (y, x)

/-- The step of the state with the word where it fetches. -/
def run (w : Nat) (s : State) : Result := step (s.withFetchWord 16 w)

/-- Halted with this cause, `PC` at this address. -/
def haltedAt (c : Cause) (pc : Word) (t : State) : Bool :=
  t.status == .halted && t.cause == c && t.pc == pc

/-! ### WellFormed: every check refuses an ill-formed term -/

theorem test_wf_fixed_operand : operandsFit .fixed { kk := 1 } = false := by decide
theorem test_wf_nnn_bound : operandsFit .nnn { nnn := 4096 } = false := by decide
theorem test_wf_nnn_stray : operandsFit .nnn { nnn := 1, x := 1 } = false := by decide
theorem test_wf_xkk_x : operandsFit .xkk { x := 16 } = false := by decide
theorem test_wf_xkk_kk : operandsFit .xkk { kk := 256 } = false := by decide
theorem test_wf_xkk_stray : operandsFit .xkk { y := 1 } = false := by decide
theorem test_wf_xy_x : operandsFit .xy { x := 16 } = false := by decide
theorem test_wf_xy_y : operandsFit .xy { y := 16 } = false := by decide
theorem test_wf_xy_stray : operandsFit .xy { n := 1 } = false := by decide
theorem test_wf_xyn_x : operandsFit .xyn { x := 16 } = false := by decide
theorem test_wf_xyn_y : operandsFit .xyn { y := 16 } = false := by decide
theorem test_wf_xyn_n : operandsFit .xyn { n := 16 } = false := by decide
theorem test_wf_xyn_stray : operandsFit .xyn { kk := 1 } = false := by decide
theorem test_wf_x_x : operandsFit .x { x := 16 } = false := by decide
theorem test_wf_x_stray : operandsFit .x { nnn := 1 } = false := by decide
theorem test_wf_good : operandsFit .xyn { x := 15, y := 15, n := 15 } = true := by decide
theorem test_wf_instr : Instr.wellFormed (.draw 0xF 0xF 0xF) = true := by decide

theorem test_wf_config_font :
    Config.wellFormed ⟨0x200, .fixed, true, 0x1B1⟩ = false := by decide
theorem test_wf_config_end_low :
    Config.wellFormed ⟨0x1FF, .fixed, true, 0⟩ = false := by decide
theorem test_wf_config_end_high :
    Config.wellFormed ⟨0x1001, .fixed, true, 0⟩ = false := by decide
theorem test_wf_config_good :
    Config.wellFormed ⟨0x1000, .classic, false, 0x1B0⟩ = true := by decide

/-- A launch of a program of zeros. -/
def plan (fontBase : Addr) (bytes : Nat) : LaunchPlan :=
  { shiftQuirk := .fixed, vwrap := true, fontBase := fontBase, fontData := Vector.replicate 80 0xFF,
    program := List.replicate bytes 0 }

theorem test_wf_launch_font : (plan 0x1B1 0).fontFits = false := by decide
theorem plan_length (f : Addr) (k : Nat) : (plan f k).program.length = k := List.length_replicate

theorem test_wf_launch_program : (plan 0 3585).programFits = false := by
  rw [LaunchPlan.programFits, plan_length]
  decide
theorem test_wf_launch_good :
    (plan 0x1B0 3584).fontFits = true ∧ (plan 0x1B0 3584).programFits = true := by
  rw [LaunchPlan.programFits, plan_length]
  decide

/-- A memory that is out of order, lists a byte twice, lists the background, or lists an address
above 0xFFF is not in canonical form. -/
theorem test_wf_memory :
    Memory.wf [(0x301, 1), (0x300, 1)] = false ∧ Memory.wf [(0x300, 1), (0x300, 2)] = false ∧
    Memory.wf [(0x300, 0)] = false ∧ Memory.wf [(0, 0xF0)] = false ∧
    Memory.wf [(0x1000, 1)] = false ∧ Memory.wf [(0, 0), (0x300, 1), (0xFFF, 2)] = true := by decide

/-! ### Decoding: one word per constructor, written out from its row of R96 -/

/-- 0000 0000 1110 0000. -/
theorem test_decode_clear : decodesTo 0b0000_0000_1110_0000 .clear = true := by decide
theorem test_decode_return : decodesTo 0b0000_0000_1110_1110 .ret = true := by decide
/-- 0001 nnn. -/
theorem test_decode_jump : decodesTo 0b0001_0010_0011_0100 (.jump 0x234) = true := by decide
theorem test_decode_call : decodesTo 0b0010_1010_0101_1100 (.call 0xA5C) = true := by decide
/-- 0011 x kk. -/
theorem test_decode_skipEqImm :
    decodesTo 0b0011_0101_1001_0110 (.skipEqImm 0x5 0x96) = true := by decide
theorem test_decode_skipNeImm :
    decodesTo 0b0100_1010_0110_1001 (.skipNeImm 0xA 0x69) = true := by decide
/-- 0101 x y 0000. -/
theorem test_decode_skipEqReg :
    decodesTo 0b0101_0001_0010_0000 (.skipEqReg 0x1 0x2) = true := by decide
theorem test_decode_loadImm :
    decodesTo 0b0110_1010_0010_1100 (.loadImm 0xA 0x2C) = true := by decide
theorem test_decode_addImm :
    decodesTo 0b0111_0011_1111_0001 (.addImm 0x3 0xF1) = true := by decide
/-- 1000 x y nnnn, the operation in the low nibble. -/
theorem test_decode_move : decodesTo 0b1000_0001_0010_0000 (.move 0x1 0x2) = true := by decide
theorem test_decode_or : decodesTo 0b1000_0010_0001_0001 (.or 0x2 0x1) = true := by decide
theorem test_decode_and : decodesTo 0b1000_0011_1100_0010 (.and 0x3 0xC) = true := by decide
theorem test_decode_xor : decodesTo 0b1000_0100_1101_0011 (.xor 0x4 0xD) = true := by decide
theorem test_decode_add : decodesTo 0b1000_0001_1111_0100 (.add 0x1 0xF) = true := by decide
theorem test_decode_sub : decodesTo 0b1000_1111_0001_0101 (.sub 0xF 0x1) = true := by decide
theorem test_decode_shiftRight :
    decodesTo 0b1000_0101_0110_0110 (.shiftRight 0x5 0x6) = true := by decide
theorem test_decode_subn : decodesTo 0b1000_0110_0101_0111 (.subn 0x6 0x5) = true := by decide
theorem test_decode_shiftLeft :
    decodesTo 0b1000_0111_1000_1110 (.shiftLeft 0x7 0x8) = true := by decide
theorem test_decode_skipNeReg :
    decodesTo 0b1001_1000_0111_0000 (.skipNeReg 0x8 0x7) = true := by decide
theorem test_decode_loadAddr : decodesTo 0b1010_1111_0000_0001 (.loadAddr 0xF01) = true := by decide
theorem test_decode_jumpOffset :
    decodesTo 0b1011_0011_0000_0010 (.jumpOffset 0x302) = true := by decide
theorem test_decode_random : decodesTo 0b1100_0011_0000_1111 (.random 0x3 0x0F) = true := by decide
theorem test_decode_draw :
    decodesTo 0b1101_0001_0010_1111 (.draw 0x1 0x2 0xF) = true := by decide
/-- 1110 x, low byte 1001 1110 or 1010 0001. -/
theorem test_decode_skipKeyDown :
    decodesTo 0b1110_0110_1001_1110 (.skipKeyDown 0x6) = true := by decide
theorem test_decode_skipKeyUp :
    decodesTo 0b1110_0111_1010_0001 (.skipKeyUp 0x7) = true := by decide
/-- 1111 x, the operation in the low byte. -/
theorem test_decode_readDelay : decodesTo 0b1111_0001_0000_0111 (.readDelay 0x1) = true := by decide
theorem test_decode_waitKey : decodesTo 0b1111_0010_0000_1010 (.waitKey 0x2) = true := by decide
theorem test_decode_setDelay : decodesTo 0b1111_0011_0001_0101 (.setDelay 0x3) = true := by decide
theorem test_decode_setSound : decodesTo 0b1111_0100_0001_1000 (.setSound 0x4) = true := by decide
theorem test_decode_addAddr : decodesTo 0b1111_0101_0001_1110 (.addAddr 0x5) = true := by decide
theorem test_decode_spriteAddr :
    decodesTo 0b1111_0110_0010_1001 (.spriteAddr 0x6) = true := by decide
theorem test_decode_bcd : decodesTo 0b1111_1100_0011_0011 (.bcd 0xC) = true := by decide
theorem test_decode_storeRegs : decodesTo 0b1111_1111_0101_0101 (.storeRegs 0xF) = true := by decide
theorem test_decode_loadRegs : decodesTo 0b1111_0000_0110_0101 (.loadRegs 0x0) = true := by decide

/-- TU1, TU2: family 0. -/
theorem test_TU1_TU2 :
    [0x0000, 0x00E1, 0x00ED, 0x00EF, 0x00FF, 0x0123, 0x0FFF, 0x01E0, 0x02EE, 0x0FE0].all
      isUndefined = true := by decide
/-- TU3, TU4, TU5: families 5, 9, 8. -/
theorem test_TU3_TU4_TU5 :
    [0x5121, 0x512F, 0x5001, 0x9121, 0x912F, 0x8128, 0x8129, 0x812A, 0x812B, 0x812C, 0x812D,
      0x812F].all isUndefined = true := by decide
/-- TU6: family E. -/
theorem test_TU6 :
    [0xE000, 0xE19D, 0xE19F, 0xE1A0, 0xE1A2, 0xE1FF].all isUndefined = true := by decide
/-- TU7: family F. -/
theorem test_TU7 :
    [0xF000, 0xF106, 0xF108, 0xF10B, 0xF114, 0xF116, 0xF11D, 0xF130, 0xF134, 0xF154, 0xF156,
      0xF164, 0xF166, 0xF175, 0xF185, 0xF1FF].all isUndefined = true := by decide
theorem test_decode_truncated : decode [0x60] = .error .truncated := by decide
theorem test_decode_bytes : decode [0x6A, 0x2C, 0x99] = .ok (.loadImm 0xA 0x2C, [0x99]) := by decide
theorem test_decodeTableWord : decodeTableWord 16 0x8124 = some (.add 1 2) := by decide
theorem test_decodeTableWord_undefined : decodeTableWord 16 0x5121 = none := by decide
/-- R106, the lines of programs P1, P3. -/
theorem test_asm :
    Instr.asm (.loadImm 0x0 0x05) = "load-imm V0, 05" ∧
    Instr.asm (.draw 0x0 0x1 0x1) = "draw V0, V1, 1" ∧ Instr.asm (.jump 0x204) = "jump 204" := by
  decide

/-! ### Display (95_test_vectors.md section 2.1) -/

theorem test_TD1 : nextIs (run 0x00E0 (regs [(0xF, 0x07)] (pixels [(0, 0), (31, 63)] start)))
    (fun t => t.pc == 0x202 && t.readV 0xF == 0x07 && rowsAre [0, 31] [] t) = true := by decide

/-- TD2 to TD4: the eight target pixels. -/
def eight : List (Fin 32 × Fin 64) :=
  [(0, 60), (0, 61), (0, 62), (0, 63), (0, 0), (0, 1), (0, 2), (0, 3)]

/-- The start of TD2. -/
def td2 : State := { (regs [(0, 0x3C)] start).writeBytes 0x300 [0xFF] with i := 0x300 }

/-- TD3: horizontal wrap and a collision. TD9: `x = F`, the position is the old `VF`. -/
theorem test_TD3_TD9 :
    nextIs (run 0xD011 (pixels [(0, 62)] td2))
      (fun t => t.readV 0xF == 1 && rowsAre [0, 1] (eight.erase (0, 62)) t) = true ∧
    nextIs (run 0xDF12 { (regs [(0xF, 5), (1, 2)] start).writeBytes 0x300 [0x81] with i := 0x300 })
      (fun t => t.readV 0xF == 0 && rowsAre [2] [(2, 5), (2, 12)] t) = true := by decide

/-- The start of TD10. -/
def td10 : State :=
  { (regs [(1, 0x1E)] start).writeBytes 0x300 [0x80, 0x80, 0x80] with i := 0x300 }

/-- TD12, TD13: a row below the bottom edge, wrapped and dropped. -/
theorem test_TD12_TD13 :
    nextIs (run 0xD013 (pixels [(0, 0)] td10))
      (fun t => t.readV 0xF == 1 && rowsAre [0, 30, 31] [(30, 0), (31, 0)] t) = true ∧
    nextIs (run 0xD013 (noWrap (pixels [(0, 0)] td10)))
      (fun t => t.readV 0xF == 0 && rowsAre [0, 30, 31] [(30, 0), (31, 0), (0, 0)] t) = true := by
  decide

/-! ### Control transfer (section 2.2) -/

theorem test_TC2 : nextIs (run 0x00EE start) (haltedAt .stackUnderflow 0x202) = true := by decide
theorem test_TC3 : nextIs (run 0x00EE (stacked 16 0xABC start))
    (fun t => t.pc == 0xABC && t.sp == 15) = true := by decide
theorem test_TC6 : nextIs (run 0x1FFF start) (fun t => t.pc == 0xFFF) = true := by decide
theorem test_TC7 : nextIs (run 0x220A (atPc 0x204 start))
    (fun t => t.pc == 0x20A && t.sp == 1 && t.stack[0] == 0x206) = true := by decide
theorem test_TC9 : nextIs (run 0x2300 (stacked 16 0 start))
    (haltedAt .stackOverflow 0x202) = true := by decide
theorem test_TC10 : nextIs (run 0x3000 (atPc 0x208 start)) (fun t => t.pc == 0x20C) = true := by
  decide
theorem test_TC11 : nextIs (run 0x3000 (atPc 0x208 (regs [(0, 1)] start)))
    (fun t => t.pc == 0x20A) = true := by decide
theorem test_TC13 : nextIs (run 0x41FF (atPc 0x300 (endAt 0x400 start)))
    (fun t => t.pc == 0x304) = true := by decide
theorem test_TC14 : nextIs (run 0x41FF (atPc 0x300 (endAt 0x400 (regs [(1, 0xFF)] start))))
    (fun t => t.pc == 0x302) = true := by decide
theorem test_TC15 : nextIs (run 0x5120 (regs [(1, 7), (2, 7)] start))
    (fun t => t.pc == 0x204) = true := by decide
theorem test_TC16 : nextIs (run 0x5120 (regs [(1, 7), (2, 8)] start))
    (fun t => t.pc == 0x202) = true := by decide
theorem test_TC18 : nextIs (run 0x9120 (regs [(1, 7), (2, 8)] start))
    (fun t => t.pc == 0x204) = true := by decide
theorem test_TC20 : nextIs (run 0x9330 (regs [(3, 0x9C)] start))
    (fun t => t.pc == 0x202) = true := by decide
theorem test_TC22 : nextIs (run 0xBFFF (regs [(0, 0xFF)] start))
    (fun t => t.pc == 0x10FE) = true := by decide
theorem test_TC23 : nextIs (run 0xB210 (regs [(0, 0x02), (2, 0x40)] start))
    (fun t => t.pc == 0x212) = true := by decide

/-! ### Load, ALU, random (section 2.3) -/

theorem test_TA1 : nextIs (run 0x6A2C start)
    (fun t => t.pc == 0x202 && t.readV 0xA == 0x2C) = true := by decide
theorem test_TA5 : nextIs (run 0x7001 (regs [(0, 0xFF)] start))
    (fun t => t.readV 0 == 0 && t.readV 0xF == 0) = true := by decide
theorem test_TA6 : nextIs (run 0x8120 (regs [(2, 0x7E)] start))
    (fun t => t.readV 1 == 0x7E && t.readV 2 == 0x7E) = true := by decide
theorem test_TA7 : nextIs (run 0x8121 (regs [(1, 0xF0), (2, 0x0F), (0xF, 1)] start))
    (fun t => t.readV 1 == 0xFF && t.readV 0xF == 1) = true := by decide
theorem test_TA8 : nextIs (run 0x8122 (regs [(1, 0xF3), (2, 0x3F), (0xF, 1)] start))
    (fun t => t.readV 1 == 0x33 && t.readV 0xF == 1) = true := by decide
theorem test_TA9 : nextIs (run 0x8123 (regs [(1, 0xFF), (2, 0x0F), (0xF, 1)] start))
    (fun t => t.readV 1 == 0xF0 && t.readV 0xF == 1) = true := by decide
theorem test_TA11 : nextIs (run 0x8124 (regs [(1, 0xFF), (2, 1)] start))
    (fun t => t.readV 1 == 0 && t.readV 0xF == 1) = true := by decide
theorem test_TA16 : nextIs (run 0x8F14 (regs [(0xF, 0xF0), (1, 0x20)] start))
    (fun t => t.readV 0xF == 0x10) = true := by decide
theorem test_TA18 : nextIs (run 0x8125 (regs [(1, 0x05), (2, 0x0A)] start))
    (fun t => t.readV 1 == 0xFB && t.readV 0xF == 0) = true := by decide
theorem test_TA20 : nextIs (run 0x8125 (regs [(1, 7), (2, 7)] start))
    (fun t => t.readV 1 == 0 && t.readV 0xF == 1) = true := by decide
theorem test_TA24 : nextIs (run 0x8126 (regs [(1, 3), (2, 0xFF)] start))
    (fun t => t.readV 1 == 1 && t.readV 0xF == 1 && t.readV 2 == 0xFF) = true := by decide
theorem test_TA26 : nextIs (run 0x8126 (classic (regs [(1, 3), (2, 4)] start)))
    (fun t => t.readV 1 == 2 && t.readV 0xF == 0 && t.readV 2 == 4) = true := by decide
theorem test_TA31 : nextIs (run 0x8127 (regs [(1, 0x05), (2, 0x0A)] start))
    (fun t => t.readV 1 == 0x05 && t.readV 0xF == 1) = true := by decide
theorem test_TA32 : nextIs (run 0x8127 (regs [(1, 0x0A), (2, 0x05)] start))
    (fun t => t.readV 1 == 0xFB && t.readV 0xF == 0) = true := by decide
theorem test_TA36 : nextIs (run 0x812E (classic (regs [(1, 0x01), (2, 0xC0)] start)))
    (fun t => t.readV 1 == 0x80 && t.readV 0xF == 1 && t.readV 2 == 0xC0) = true := by decide
theorem test_TA37 : nextIs (run 0x812E (regs [(1, 0x01), (2, 0xC0)] start))
    (fun t => t.readV 1 == 0x02 && t.readV 0xF == 0) = true := by decide
theorem test_TA38 : nextIs (run 0xC30F (input 0 0xA7 start)) (fun t => t.readV 3 == 0x07) = true := by
  decide
theorem test_TA39 : nextIs (run 0xC300 (input 0 0xFF (regs [(3, 0x55)] start)))
    (fun t => t.readV 3 == 0) = true := by decide

/-! ### Address register and memory (section 2.4) -/

theorem test_TM2 : nextIs (run 0xAFFF start) (fun t => t.i == 0xFFF) = true := by decide
theorem test_TM3 : nextIs (run 0xF21E { regs [(2, 0x20)] start with i := 0xFF0 })
    (fun t => t.i == 0x1010 && t.readV 0xF == 0 && t.status == .running) = true := by decide
theorem test_TM4 : nextIs (run 0xF21E { regs [(2, 0x20)] start with i := 0xFFF0 })
    (fun t => t.i == 0x0010) = true := by decide
theorem test_TM6 : nextIs (run 0xF029 (regs [(0, 0x0F)] start)) (fun t => t.i == 0x4B) = true := by
  decide
theorem test_TM7 : nextIs (run 0xF029 { regs [(0, 0x10)] start with i := 0x123 })
    (fun t => haltedAt .fontIndexOutOfRange 0x202 t && t.i == 0x123) = true := by decide
theorem test_TM11 : nextIs (run 0xF033 { regs [(0, 0x80)] start with i := 0xFFD })
    (fun t => t.readByte 0xFFD == 1 && t.readByte 0xFFE == 2 && t.readByte 0xFFF == 8) = true := by
  decide
theorem test_TM12 : nextIs (run 0xF033 { regs [(0, 0x80)] start with i := 0xFFE })
    (fun t => haltedAt .addressOutOfRange 0x202 t && t.readByte 0xFFE == 0) = true := by decide
theorem test_TM13 :
    nextIs (run 0xF355
      { regs [(0, 0x11), (1, 0x22), (2, 0x33), (3, 0x44), (4, 0x55)] start with i := 0x300 })
      (fun t => t.readByte 0x300 == 0x11 && t.readByte 0x303 == 0x44 && t.readByte 0x304 == 0
        && t.i == 0x300) = true := by decide
theorem test_TM16 : nextIs (run 0xFF55 { regs [(0, 0xA0)] start with i := 0xFF1 })
    (fun t => haltedAt .addressOutOfRange 0x202 t && t.readByte 0xFF1 == 0) = true := by decide
theorem test_TM17 :
    nextIs (run 0xF265
      { (regs [(3, 0x77)] start).writeBytes 0x300 [2, 5, 5, 9] with i := 0x300 })
      (fun t => t.readV 0 == 2 && t.readV 2 == 5 && t.readV 3 == 0x77 && t.i == 0x300) = true := by
  decide
theorem test_TM19 : nextIs (run 0xF165 { regs [(0, 1), (1, 2)] start with i := 0xFFF })
    (fun t => haltedAt .addressOutOfRange 0x202 t && t.readV 0 == 1 && t.readV 1 == 2) = true := by
  decide

/-! ### Keys and timers (section 2.5) -/

theorem test_TK1 : nextIs (run 0xE19E (input 0x0020 0 (regs [(1, 5)] start)))
    (fun t => t.pc == 0x204) = true := by decide
theorem test_TK5 : nextIs (run 0xE19E (input 0xFFFF 0 (regs [(1, 0x10)] start)))
    (haltedAt .keyIndexOutOfRange 0x202) = true := by decide
theorem test_TK3 : nextIs (run 0xE1A1 (input 0x0020 0 (regs [(1, 5)] start)))
    (fun t => t.pc == 0x202) = true := by decide
theorem test_TK4 : nextIs (run 0xE1A1 (input 0xFFDF 0 (regs [(1, 5)] start)))
    (fun t => t.pc == 0x204) = true := by decide
theorem test_TK8 : nextIs (run 0xF107 (timers 5 0 start))
    (fun t => t.dt == 4 && t.readV 1 == 4) = true := by decide
theorem test_TK9 : nextIs (run 0xF107 (regs [(1, 0x33)] start))
    (fun t => t.dt == 0 && t.readV 1 == 0) = true := by decide
theorem test_TK11 : nextIs (run 0xF20A (atPc 0x206 (timers 2 1 (regs [(2, 0x33)] start))))
    (fun t => t.pc == 0x206 && t.readV 2 == 0x33 && t.dt == 1 && t.st == 0
      && t.status == .running) = true := by decide
theorem test_TK12 : nextIs (run 0xF20A (atPc 0x206 (input 0x0280 0 (regs [(2, 0x33)] start))))
    (fun t => t.pc == 0x208 && t.readV 2 == 7) = true := by decide
theorem test_TK15 : nextIs (run 0xF015 (regs [(0, 5)] (timers 200 0 start)))
    (fun t => t.dt == 5) = true := by decide
theorem test_TK18 : nextIs (run 0xF318 (regs [(3, 0xFF)] (timers 7 7 start)))
    (fun t => t.st == 255 && t.dt == 6) = true := by decide

/-! ### Engine (section 2.6) -/

theorem test_TE1 : nextIs (step (endAt 0x200 (timers 3 0 start)))
    (fun t => haltedAt .endReached 0x200 t && t.dt == 3) = true := by decide
theorem test_TE2 : nextIs (step (atPc 0xFFF start)) (haltedAt .fetchOutOfBounds 0xFFF) = true := by
  decide
theorem test_TE3 : nextIs (step (endAt 0x1000 (atPc 0x1000 start)))
    (haltedAt .endReached 0x1000) = true := by decide
theorem test_TE5 : nextIs (step (atPc 0x201 start)) (haltedAt .pcMisaligned 0x201) = true := by decide
theorem test_TE7 : nextIs (run 0x6001 (atPc 0xFFE (endAt 0x1000 start)))
    (fun t => t.pc == 0x1000 && t.readV 0 == 1) = true := by decide
theorem test_TE8 : nextIs (run 0x0000 (timers 3 1 start))
    (fun t => haltedAt .undefinedInstruction 0x202 t && t.dt == 2 && t.st == 0) = true := by decide
theorem test_TE9 :
    nextIs (step { timers 3 0 start with status := .halted, cause := .stackUnderflow })
      (fun t => haltedAt .stackUnderflow 0x200 t && t.dt == 3) = true := by decide
theorem test_TE10 : nextIs (step (endAt 0x203 (atPc 0x203 start)))
    (haltedAt .endReached 0x203) = true := by decide
/-- TK17 with R46: the sound output and the strobe. -/
theorem test_outputs : nextIs (run 0xF318 (regs [(3, 2)] start))
    (fun t => (outputs start t).soundOn && (outputs start t).repaint
      && (outputs start t).cause == 0) = true := by decide
/-- R354: the launch of a two-byte program, then its first step. -/
theorem test_launch :
    nextIs (State.reset.launch { plan 0x050 0 with program := [0x6A, 0x2C] })
      (fun s => s.cfg.endAddr == 0x202 && s.readByte 0x9F == 0xFF && s.readByte 0xA0 == 0
        && nextIs (step s) fun t => t.readV 0xA == 0x2C && t.pc == 0x202) = true := by
  decide +kernel
/-- The first step after reset with nothing loaded halts with `END_REACHED` (log 5). -/
theorem test_first_step_of_reset : nextIs (step State.reset) (haltedAt .endReached 0x200) = true := by
  decide

/-! ### The host's moves (R41, R47) -/

/-- While `rst` is released there is no load, no new configuration and no second release. -/
theorem test_no_host_write_while_released :
    (Block.move ⟨start, false⟩ (.load 0x300 1)).isNone = true ∧
    (Block.move ⟨start, false⟩ (.configure start.cfg)).isNone = true ∧
    (Block.move ⟨start, false⟩ .releaseRst).isNone = true := by decide
/-- While `rst` is asserted no step is performed, and an illegal configuration is never released. -/
theorem test_no_step_in_reset :
    (Block.move ⟨start, true⟩ (.step ⟨0, 0⟩)).isNone = true ∧
    (Block.move ⟨endAt 0x1001 start, true⟩ .releaseRst).isNone = true := by decide

/-- An image of 65536 bytes, whose length is 0 in 16 bits, does not release the CORE (R354 (3)). -/
theorem test_long_image_stays_in_reset :
    (Block.moves (launchMoves (plan 0x1B0 65536)) ⟨start, false⟩).map (·.rst) = some true := by
  have h : (plan 0x1B0 65536).fits = false := by
    rw [LaunchPlan.fits, LaunchPlan.programFits, plan_length]
    decide
  rw [launchMoves, h]
  rfl

/-! ### Witnesses: states and operands that meet the hypotheses of the obligations, clause by clause -/

/-- A running state at `PC` = 0x200 with the word where it fetches. -/
def holding (w : Nat) : State := start.withFetchWord 16 w

theorem holding_fetches : (holding 0x6A2C).Fetches := ⟨by decide, by decide, by decide, by decide⟩

theorem witness_EncodeOfDecodeIsTheWord : ∃ w i, decodeWord w = .ok i :=
  ⟨0x8126, .shiftRight 1 2, by decide⟩

theorem witness_DecoderAgreesWithOpcodeMap :
    (∃ w i, decodeWord w = .ok i) ∧ (∃ w e, decodeWord w = .error e) ∧
    ∃ w, ∃ r₁ ∈ opcodeTable, ∃ r₂ ∈ opcodeTable, r₁.selects w = true ∧ r₂.selects w = true :=
  ⟨⟨0xF065, .loadRegs 0, by decide⟩, ⟨0xF066, .undefinedInstruction 0xF066, by decide⟩,
    0x00E0, Instr.row .clear, by simp [opcodeTable], Instr.row .clear, by simp [opcodeTable],
    by decide, by decide⟩

/-- A word of each kind R100 lists is undefined. -/
theorem witness_UndefinedWordsAreThoseListed :
    [0x0FFF, 0x5001, 0x900F, 0x8008, 0x800D, 0x800F, 0xE09D, 0xF066].all isUndefined = true := by
  decide

theorem witness_ByteStreamDecodes :
    ∃ hi lo i rest, decode (hi :: lo :: rest) = .ok (i, rest) :=
  ⟨0x6A, 0x2C, .loadImm 0xA 0x2C, [0x99], by decide⟩

theorem witness_ResetPutsEveryRegisterAtItsValue :
    ∃ s t : State, s.pc ≠ 0x200 ∧ (t = s.rst ∨ t = State.reset) :=
  ⟨atPc 0x300 start, _, by decide, .inl rfl⟩

/-- The highest font base with the longest program. -/
theorem witness_LaunchLoadsFontAndProgram :
    ∃ l : LaunchPlan, l.fontBase.toNat + 80 ≤ 0x200 ∧ l.program.length ≤ 3584 :=
  ⟨plan 0x1B0 3584, by decide, (plan_length 0x1B0 3584).le⟩

/-- A released block that steps, and one in reset that takes a load at the last address and a move
that is no load and no configuration. -/
theorem witness_HostHasOnlyTheAllowedMoves :
    (∃ (b : Block) (inp : StepInput), b.rst = false ∧ (b.move (.step inp)).isSome = true) ∧
    (∃ b : Block, b.rst = true ∧ (b.move (.load 0xFFF 1)).isSome = true) ∧
    ∃ (b b' : Block) (m : HostMove), b.rst = true ∧ b.move m = some b' ∧ (∀ a v, m ≠ .load a v) ∧
      ∀ c, m ≠ .configure c :=
  ⟨⟨⟨holding 0x6A2C, false⟩, ⟨0x8000, 0xFF⟩, by decide⟩, ⟨⟨start, true⟩, by decide⟩,
    ⟨start, true⟩, _, .releaseRst, rfl, rfl, (fun _ _ h => by cases h), (fun _ h => by cases h)⟩

/-- The same plan from a block that is running. -/
theorem witness_LaunchIsTheHostsMoves :
    ∃ (b : Block) (l : LaunchPlan), b.rst = false ∧ l.fontBase.toNat + 80 ≤ 0x200 ∧
      l.program.length ≤ 3584 :=
  ⟨⟨holding 0x6A2C, false⟩, plan 0x1B0 3584, rfl, by decide, (plan_length 0x1B0 3584).le⟩
/-- A font one byte too high; an image one byte too long. -/
theorem witness_LaunchIsTheHostsMoves_notFitting :
    (∃ l : LaunchPlan, 0x200 < l.fontBase.toNat + 80) ∧ ∃ l : LaunchPlan, 3584 < l.program.length :=
  ⟨⟨plan 0x1B1 0, by decide⟩, plan 0 3585, by rw [plan_length]; decide⟩

theorem witness_InvalidLaunchIsRejected_font : ∃ l : LaunchPlan, 0x200 < l.fontBase.toNat + 80 :=
  ⟨plan 0x1B1 0, by decide⟩
theorem witness_InvalidLaunchIsRejected_program :
    ∃ l : LaunchPlan, l.fontBase.toNat + 80 ≤ 0x200 ∧ 3584 < l.program.length :=
  ⟨plan 0x1B0 3585, by decide, by rw [plan_length]; decide⟩

theorem witness_HaltAndFetchChecksInOrder_end :
    ∃ s : State, s.status = .running ∧ s.pc = s.cfg.endAddr :=
  ⟨endAt 0x1000 (atPc 0x1000 start), by decide, by decide⟩
theorem witness_HaltAndFetchChecksInOrder_bound :
    ∃ s : State, s.status = .running ∧ s.pc ≠ s.cfg.endAddr ∧ 0x0FFF ≤ s.pc.toNat :=
  ⟨atPc 0xFFF start, by decide, by decide, by decide⟩
theorem witness_HaltAndFetchChecksInOrder_odd :
    ∃ s : State, s.status = .running ∧ s.pc ≠ s.cfg.endAddr ∧ s.pc.toNat < 0x0FFF ∧
      s.pc.toNat % 2 = 1 :=
  ⟨atPc 0xFFD start, by decide, by decide, by decide, by decide⟩

/-- At the last address a word can be fetched from. -/
theorem witness_StepExecutesTheDecodedInstruction :
    ∃ (s : State) (i : Instr), s.Fetches ∧
      decodeWord (s.readByte s.pc.toNat ++ s.readByte (s.pc.toNat + 1)) = .ok i :=
  ⟨(atPc 0xFFE (endAt 0x1000 start)).withFetchWord 16 0x6A2C, .loadImm 0xA 0x2C,
    ⟨by decide, by decide, by decide, by decide⟩, by decide⟩

theorem witness_UndefinedWordHaltsAfterTheTick :
    ∃ s : State, s.Fetches ∧ ∀ row ∈ opcodeTable,
      row.selects (s.readByte s.pc.toNat ++ s.readByte (s.pc.toNat + 1)) = false :=
  ⟨holding 0x5121, ⟨by decide, by decide, by decide, by decide⟩, by decide⟩

/-- A step that ends in a halt with this cause. -/
theorem halting_step {s : State} {c : Cause} {pc : Word} (r : s.status = .running)
    (h : nextIs (step s) (haltedAt c pc) = true) :
    ∃ s t : State, s.status = .running ∧ step s = .next t ∧ t.status = .halted ∧ t.cause = c := by
  obtain ⟨t, e, p⟩ := exists_of_nextIs h
  simp only [haltedAt, Bool.and_eq_true, beq_iff_eq] at p
  exact ⟨s, t, r, e, p.1.1, p.1.2⟩

theorem witness_HaltsArePrecise_before_fetch :
    ∃ s t : State, s.status = .running ∧ step s = .next t ∧ t.status = .halted ∧
      t.cause = .pcMisaligned := halting_step (s := atPc 0x201 start) (pc := 0x201) rfl (by decide)
theorem witness_HaltsArePrecise_after_fetch :
    ∃ s t : State, s.status = .running ∧ step s = .next t ∧ t.status = .halted ∧
      t.cause = .fontIndexOutOfRange :=
  halting_step (s := (regs [(0, 0x10)] start).withFetchWord 16 0xF029) (pc := 0x202) rfl (by decide)

theorem witness_HaltsArePrecise_undefined :
    ∃ s t : State, s.status = .running ∧ step s = .next t ∧ t.status = .halted ∧
      t.cause = .undefinedInstruction := halting_step (s := holding 0x5121) (pc := 0x202) rfl (by decide)

theorem witness_HaltedStateIsFinal : ∃ s : State, s.status = .halted :=
  ⟨start.halt .stackUnderflow, rfl⟩

/-- The instruction in this state halts a running engine with this cause. -/
theorem halting_exec {i : Instr} {s : State} {c : Cause} (pc : Word) (r : s.status = .running)
    (h : nextIs (exec i s) (haltedAt c pc) = true) :
    ∃ s t : State, s.status = .running ∧ exec i s = .next t ∧ t.status = .halted ∧ t.cause = c := by
  obtain ⟨t, e, p⟩ := exists_of_nextIs h
  simp only [haltedAt, Bool.and_eq_true, beq_iff_eq] at p
  exact ⟨s, t, r, e, p.1.1, p.1.2⟩

theorem witness_EachInstructionRaisesItsOneCause_return :
    ∃ s t : State, s.status = .running ∧ exec .ret s = .next t ∧ t.status = .halted ∧
      t.cause = .stackUnderflow := halting_exec (s := start) 0x200 rfl (by decide)
theorem witness_EachInstructionRaisesItsOneCause_call :
    ∃ s t : State, s.status = .running ∧ exec (.call 0) s = .next t ∧ t.status = .halted ∧
      t.cause = .stackOverflow := halting_exec (s := stacked 16 0 start) 0x200 rfl (by decide)
/-- `I + n - 1` = 0x1000. -/
theorem witness_EachInstructionRaisesItsOneCause_draw :
    ∃ s t : State, s.status = .running ∧ exec (.draw 0 1 0xF) s = .next t ∧ t.status = .halted ∧
      t.cause = .addressOutOfRange :=
  halting_exec (s := ({ start with i := 0xFF2 } : State)) 0x200 rfl (by decide)
/-- `I + 2` = 0x1000. -/
theorem witness_EachInstructionRaisesItsOneCause_bcd :
    ∃ s t : State, s.status = .running ∧ exec (.bcd 0) s = .next t ∧ t.status = .halted ∧
      t.cause = .addressOutOfRange :=
  halting_exec (s := ({ start with i := 0xFFE } : State)) 0x200 rfl (by decide)
/-- `I + x` = 0x1000. -/
theorem witness_EachInstructionRaisesItsOneCause_storeRegs :
    ∃ s t : State, s.status = .running ∧ exec (.storeRegs 0xF) s = .next t ∧ t.status = .halted ∧
      t.cause = .addressOutOfRange :=
  halting_exec (s := ({ start with i := 0xFF1 } : State)) 0x200 rfl (by decide)
theorem witness_EachInstructionRaisesItsOneCause_loadRegs :
    ∃ s t : State, s.status = .running ∧ exec (.loadRegs 0) s = .next t ∧ t.status = .halted ∧
      t.cause = .addressOutOfRange :=
  halting_exec (s := ({ start with i := 0x1000 } : State)) 0x200 rfl (by decide)
theorem witness_EachInstructionRaisesItsOneCause_keySkips :
    ∃ s t : State, s.status = .running ∧ exec (.skipKeyDown 1) s = .next t ∧ t.status = .halted ∧
      t.cause = .keyIndexOutOfRange :=
  halting_exec (s := regs [(1, 0x10)] start) 0x200 rfl (by decide)
theorem witness_EachInstructionRaisesItsOneCause_spriteAddr :
    ∃ s t : State, s.status = .running ∧ exec (.spriteAddr 1) s = .next t ∧ t.status = .halted ∧
      t.cause = .fontIndexOutOfRange :=
  halting_exec (s := regs [(1, 0x10)] start) 0x200 rfl (by decide)
/-- The other side: an instruction in range leaves the engine running. -/
theorem witness_EachInstructionRaisesItsOneCause_none :
    ∃ s t : State, s.status = .running ∧ exec (.bcd 0) s = .next t ∧ t.status = .running := by
  obtain ⟨t, e, p⟩ := exists_of_nextIs
    (show nextIs (exec (.bcd 0) { start with i := 0xFFD }) (fun t => t.status == .running) = true
      by decide)
  exact ⟨_, t, rfl, e, by simpa using p⟩

/-- A step from this state with this property after it. -/
theorem stepping {s : State} {p : State → Bool} (h : nextIs (step s) p = true) :
    ∃ t, step s = .next t := (exists_of_nextIs h).imp fun _ h => h.1

theorem witness_TimersTickOncePerFetchedWord_other :
    ∃ s t : State, step s = .next t ∧ s.Fetches ∧ (∀ x, decodeWord s.fetchWord ≠ .ok (.setDelay x)) ∧
      ∀ x, decodeWord s.fetchWord ≠ .ok (.setSound x) := by
  obtain ⟨t, e⟩ := stepping (s := holding 0x6A2C) (p := fun _ => true) (by decide)
  have d : decodeWord (holding 0x6A2C).fetchWord = .ok (.loadImm 0xA 0x2C) := by decide
  exact ⟨_, t, e, holding_fetches, fun x h => (by rw [d] at h; cases h),
    fun x h => (by rw [d] at h; cases h)⟩
theorem witness_TimersTickOncePerFetchedWord_setDelay :
    ∃ s t : State, step s = .next t ∧ s.Fetches ∧ decodeWord s.fetchWord = .ok (.setDelay 0) := by
  obtain ⟨t, e⟩ := stepping (s := holding 0xF015) (p := fun _ => true) (by decide)
  exact ⟨_, t, e, ⟨by decide, by decide, by decide, by decide⟩, by decide⟩
theorem witness_TimersTickOncePerFetchedWord_setSound :
    ∃ s t : State, step s = .next t ∧ s.Fetches ∧ decodeWord s.fetchWord = .ok (.setSound 3) := by
  obtain ⟨t, e⟩ := stepping (s := holding 0xF318) (p := fun _ => true) (by decide)
  exact ⟨_, t, e, ⟨by decide, by decide, by decide, by decide⟩, by decide⟩
theorem witness_TimersTickOncePerFetchedWord_noFetch :
    ∃ s t : State, step s = .next t ∧ ¬ s.Fetches := by
  obtain ⟨t, e⟩ := stepping (s := atPc 0x201 (timers 1 1 start)) (p := fun _ => true) (by decide)
  exact ⟨_, t, e, fun f => absurd f.even (by decide)⟩

/-- An instruction after which this field differs. -/
theorem changing {α : Type} [BEq α] [LawfulBEq α] (f : State → α) {i : Instr} {s : State}
    (h : nextIs (exec i s) (fun t => f t != f s) = true) :
    ∃ t, exec i s = .next t ∧ f t ≠ f s := by
  obtain ⟨t, e, p⟩ := exists_of_nextIs h
  exact ⟨t, e, by simpa using p⟩

/-- A register as the destination, as the last of a block, and as the flag. -/
theorem witness_OnlyTheListedInstructionsWrite_register :
    (∃ i s t, exec i s = .next t ∧ t.readV 0xE ≠ s.readV 0xE) ∧
    (∃ s t, exec (.loadRegs 0xE) s = .next t ∧ t.readV 0xE ≠ s.readV 0xE) ∧
    ∃ s t, exec (.sub 1 2) s = .next t ∧ t.readV 0xF ≠ s.readV 0xF :=
  ⟨⟨.loadImm 0xE 1, start, changing (·.readV 0xE) (by decide)⟩,
    ⟨start, changing (·.readV 0xE) (by decide)⟩, start, changing (·.readV 0xF) (by decide)⟩
theorem witness_OnlyTheListedInstructionsWrite_status :
    ∃ i s t, exec i s = .next t ∧ t.status ≠ s.status :=
  ⟨.ret, start, changing (·.status) (by decide)⟩
theorem witness_OnlyTheListedInstructionsWrite_cause :
    ∃ i s t, exec i s = .next t ∧ t.cause ≠ s.cause :=
  ⟨.skipKeyUp 1, regs [(1, 0x10)] start, changing (·.cause) (by decide)⟩
theorem witness_OnlyTheListedInstructionsWrite_stack :
    ∃ i s t, exec i s = .next t ∧ t.stack ≠ s.stack :=
  ⟨.call 0x300, start, changing (·.stack) (by decide)⟩
theorem witness_OnlyTheListedInstructionsWrite_sp :
    ∃ i s t, exec i s = .next t ∧ t.sp ≠ s.sp :=
  ⟨.ret, stacked 16 0 start, changing (·.sp) (by decide)⟩
theorem witness_OnlyTheListedInstructionsWrite_i : ∃ i s t, exec i s = .next t ∧ t.i ≠ s.i :=
  ⟨.spriteAddr 0, regs [(0, 0xF)] start, changing (·.i) (by decide)⟩
theorem witness_OnlyTheListedInstructionsWrite_disp :
    ∃ i s t, exec i s = .next t ∧ t.disp ≠ s.disp := by
  obtain ⟨t, e, n⟩ := changing (·.disp.get 0 0) (i := .draw 0 1 1) (s := start) (by decide)
  exact ⟨_, _, t, e, fun h => n (by rw [h])⟩
theorem witness_OnlyTheListedInstructionsWrite_mem :
    ∃ i s t, exec i s = .next t ∧ t.mem ≠ s.mem :=
  ⟨.bcd 0, ({ regs [(0, 0xFF)] start with i := 0x300 } : State), changing (·.mem) (by decide)⟩
theorem witness_OnlyTheListedInstructionsWrite_dt : ∃ i s t, exec i s = .next t ∧ t.dt ≠ s.dt :=
  ⟨.setDelay 0, regs [(0, 5)] start, changing (·.dt) (by decide)⟩
theorem witness_OnlyTheListedInstructionsWrite_st : ∃ i s t, exec i s = .next t ∧ t.st ≠ s.st :=
  ⟨.setSound 0, regs [(0, 5)] start, changing (·.st) (by decide)⟩
theorem witness_OnlyTheListedInstructionsWrite_pc : ∃ i s t, exec i s = .next t ∧ t.pc ≠ s.pc :=
  ⟨.waitKey 0, start, changing (·.pc) (by decide)⟩

theorem witness_FlagIsWrittenOnlyByItsSix_alu :
    ∃ s t : State, exec (.add 1 2) s = .next t ∧ t.readV 0xF ≠ s.readV 0xF :=
  ⟨regs [(1, 0xFF), (2, 1)] start, changing (·.readV 0xF) (by decide)⟩
theorem witness_FlagIsWrittenOnlyByItsSix_draw :
    ∃ s t : State, exec (.draw 0 1 1) s = .next t ∧ t.readV 0xF ≠ s.readV 0xF :=
  ⟨pixels [(0, 0)] start, changing (·.readV 0xF) (by decide)⟩
theorem witness_FlagIsWrittenOnlyByItsSix_destination :
    ∃ s t : State, exec (.loadRegs 0xF) s = .next t ∧ t.readV 0xF ≠ s.readV 0xF :=
  ⟨start, changing (·.readV 0xF) (by decide)⟩

theorem witness_InputsReachOnlyTheirInstructions_rnd :
    ∃ (i : Instr) (s t : State) (a b : StepInput), exec i (s.withInput a) = .next t ∧
      (∀ x kk, i ≠ .random x kk) ∧ a.keys = b.keys ∧ a.rnd ≠ b.rnd := by
  obtain ⟨t, e, -⟩ := exists_of_nextIs
    (show nextIs (exec (.waitKey 2) (start.withInput ⟨0x8000, 1⟩)) (fun _ => true) = true by decide)
  exact ⟨_, start, t, _, ⟨0x8000, 2⟩, e, (fun _ _ h => by cases h), rfl, by decide⟩
theorem witness_InputsReachOnlyTheirInstructions_keys :
    ∃ (i : Instr) (s t : State) (a b : StepInput), exec i (s.withInput a) = .next t ∧
      (∀ x, i ≠ .skipKeyDown x ∧ i ≠ .skipKeyUp x ∧ i ≠ .waitKey x) ∧ a.rnd = b.rnd ∧
      a.keys ≠ b.keys := by
  obtain ⟨t, e, -⟩ := exists_of_nextIs
    (show nextIs (exec (.random 2 0xFF) (start.withInput ⟨1, 7⟩)) (fun _ => true) = true by decide)
  exact ⟨_, start, t, _, ⟨2, 7⟩, e,
    fun _ => ⟨(fun h => by cases h), (fun h => by cases h), (fun h => by cases h)⟩, rfl, by decide⟩

theorem witness_ConfigurationIsConstant : ∃ s t : State, s.Fetches ∧ step s = .next t := by
  obtain ⟨t, e⟩ := stepping (s := holding 0x6A2C) (p := fun _ => true) (by decide)
  exact ⟨_, t, holding_fetches, e⟩

theorem witness_OutputsFollowTheStep :
    ∃ (s t : State) (o : Outputs), s.Fetches ∧ stepWithOutputs s = .next (t, o) := by
  obtain ⟨t, e⟩ := stepping (s := holding 0x6A2C) (p := fun _ => true) (by decide)
  exact ⟨_, t, _, holding_fetches, by rw [stepWithOutputs, e]⟩

/-- A state with one live stack entry at the largest value, and its step. -/
theorem witness_EveryStepKeepsTheInvariant : ∃ s t : State, s.Inv ∧ s.Fetches ∧ step s = .next t := by
  obtain ⟨t, e⟩ := stepping (s := stacked 1 0x1000 (holding 0x00EE)) (p := fun _ => true) (by decide)
  exact ⟨_, t, ⟨by decide, by decide, by decide, by decide, by decide⟩,
    ⟨by decide, by decide, by decide, by decide⟩, e⟩

theorem witness_InvariantHoldsAtResetAndLaunch :
    ∃ (s t : State) (l : LaunchPlan), s.mem.wf = true ∧ s.launch l = .next t := by
  obtain ⟨t, e, -⟩ := exists_of_nextIs
    (show nextIs (State.reset.launch (plan 0x1B0 1)) (fun _ => true) = true by decide +kernel)
  exact ⟨_, t, _, by decide, e⟩

theorem witness_DrawXorsTheSpriteAndDetectsCollision_completes :
    (∃ (n : BitVec 4) (s : State), n.toNat = 0 ∧ 0xFFF < s.i.toNat) ∧
    ∃ (n : BitVec 4) (s : State), 0 < n.toNat ∧ s.i.toNat + n.toNat - 1 = 0xFFF :=
  ⟨⟨0, ({ start with i := 0x1234 } : State), by decide⟩, 0xF, ({ start with i := 0xFF1 } : State),
    by decide⟩
/-- A pixel that is hit and was set; one that is hit and was clear; one that is not hit. -/
theorem witness_DrawXorsTheSpriteAndDetectsCollision_pixels :
    ∃ s : State, (∃ yy xx, s.SpriteHits 0 1 1 yy xx ∧ s.disp.get yy xx = true) ∧
      (∃ yy xx, s.SpriteHits 0 1 1 yy xx ∧ s.disp.get yy xx = false) ∧
      ∃ yy xx, ¬ s.SpriteHits 0 1 1 yy xx := by
  refine ⟨pixels [(0, 62)] td2, ⟨0, 62, ⟨0, by decide, 2, by decide, by decide, by decide,
    .inl (by decide)⟩, by decide⟩, ⟨0, 3, ⟨0, by decide, 7, by decide, by decide, by decide,
    .inl (by decide)⟩, by decide⟩, 1, 0, ?_⟩
  rintro ⟨r, hr, c, -, -, -, h⟩
  obtain rfl : r = 0 := by
    have : (1 : BitVec 4).toNat = 1 := rfl
    omega
  exact absurd h (by decide)
/-- A hit through the wrapped rows. -/
theorem witness_DrawXorsTheSpriteAndDetectsCollision_wrap :
    ∃ s : State, s.SpriteHits 0 1 3 0 0 :=
  ⟨td10, 2, by decide, 0, by decide, by decide, by decide, .inr (by decide)⟩
theorem witness_DrawXorsTheSpriteAndDetectsCollision_halts :
    ∃ (n : BitVec 4) (s : State), 0 < n.toNat ∧ s.i.toNat + n.toNat - 1 = 0x1000 :=
  ⟨0xF, ({ start with i := 0xFF2 } : State), by decide⟩

/-- With the position in `V0`, `V1`, and a sprite of zero bytes at the top of memory. -/
theorem witness_SpriteXorProperties :
    ∃ (x y : RegIx) (n : BitVec 4) (s : State), (n.toNat = 0 ∨ s.i.toNat + n.toNat - 1 ≤ 0xFFF) ∧
      x ≠ 0xF ∧ y ≠ 0xF ∧ ∀ r, r < n.toNat → s.readByte (s.dataAddr r) = 0 :=
  ⟨0, 1, 0xF, ({ start with i := 0xFF1 } : State), by decide, by decide, by decide, by decide⟩

theorem witness_CallPushesAndJumps :
    (∃ s : State, s.sp.val = 15) ∧ ∃ s : State, s.sp.val = 16 :=
  ⟨⟨stacked 15 0 start, rfl⟩, stacked 16 0 start, rfl⟩
theorem witness_ReturnPopsIntoThePc :
    (∃ (s : State) (k : Fin 16), s.sp.val = k.val + 1 ∧ k = 15) ∧
    (∃ (s : State) (k : Fin 16), s.sp.val = k.val + 1 ∧ k = 0) ∧ ∃ s : State, s.sp.val = 0 :=
  ⟨⟨stacked 16 0 start, 15, by decide⟩, ⟨stacked 1 0 start, 0, by decide⟩, start, rfl⟩
theorem witness_ReturnUndoesCall : ∃ s : State, s.sp.val < 16 := ⟨stacked 15 0 start, by decide⟩

theorem witness_SkipsAdvanceOnTheirCondition :
    (∃ s : State, (s.readV 1).toNat = (s.readV 2).toNat) ∧
    (∃ s : State, (s.readV 1).toNat ≠ (s.readV 2).toNat) ∧ ∃ n : BitVec 4, n ≠ 0 :=
  ⟨⟨start, by decide⟩, ⟨regs [(1, 1)] start, by decide⟩, 0xF, by decide⟩

/-- A flag result with `x` other than `F`, and with `x = F`. -/
theorem witness_AddResultAndCarry_SubtractResultsAndNoBorrow :
    (∃ x : RegIx, x ≠ 0xF) ∧ ∃ x : RegIx, x = 0xF := ⟨⟨0xE, by decide⟩, 0xF, rfl⟩
theorem witness_ShiftResultsInBothModes :
    (∃ (s : State) (src : Byte), s.cfg.shiftQuirk = .fixed ∧ src = s.readV 1) ∧
    ∃ (s : State) (src : Byte), s.cfg.shiftQuirk = .classic ∧ src = s.readV 2 :=
  ⟨⟨start, _, rfl, rfl⟩, classic start, _, rfl, rfl⟩

theorem witness_SpriteAddressOfADigit :
    (∃ s : State, (s.readV 0).toNat = 0x0F) ∧ ∃ s : State, (s.readV 0).toNat = 0x10 :=
  ⟨⟨regs [(0, 0x0F)] start, by decide⟩, regs [(0, 0x10)] start, by decide⟩
theorem witness_BcdStoresThreeDigits :
    (∃ s : State, s.i.toNat + 2 = 0xFFF) ∧ ∃ s : State, s.i.toNat + 2 = 0x1000 :=
  ⟨⟨{ start with i := 0xFFD }, by decide⟩, { start with i := 0xFFE }, by decide⟩
theorem witness_StoreRegs_LoadRegs :
    (∃ (x : RegIx) (s : State), s.i.toNat + x.toNat = 0xFFF ∧ x = 0xF) ∧
    ∃ (x : RegIx) (s : State), s.i.toNat + x.toNat = 0x1000 ∧ x = 0 :=
  ⟨⟨0xF, { start with i := 0xFF0 }, by decide⟩, 0, { start with i := 0x1000 }, by decide⟩
/-- The round trip of LoadRegsCopiesFromMemory. -/
theorem witness_LoadRegsCopiesFromMemory_roundTrip :
    ∃ (x : RegIx) (s t m : State), s.i.toNat + x.toNat ≤ 0xFFF ∧ exec (.storeRegs x) s = .next t ∧
      m.i = t.i ∧ m.mem = t.mem := by
  obtain ⟨t, e, -⟩ := exists_of_nextIs
    (show nextIs (exec (.storeRegs 0xF) { start with i := 0xFF0 }) (fun _ => true) = true by decide)
  exact ⟨_, _, t, t, by decide, e, rfl, rfl⟩
theorem witness_NextFetchSeesTheStore :
    ∃ (x k : RegIx) (s : State), s.i.toNat + x.toNat ≤ 0xFFF ∧ k.toNat + 1 ≤ x.toNat ∧
      s.pc.toNat = s.i.toNat + k.toNat :=
  ⟨0xF, 0xE, atPc 0xFFE { start with i := 0xFF0 }, by decide⟩

theorem witness_KeySkipsTestTheLatch :
    (∃ s : State, (s.readV 1).toNat = 0x0F) ∧ ∃ s : State, (s.readV 1).toNat = 0x10 :=
  ⟨⟨regs [(1, 0x0F)] start, by decide⟩, regs [(1, 0x10)] start, by decide⟩
/-- Key 15 alone; no key. -/
theorem witness_WaitKeyDeliversTheLeastKeyOrWaits :
    (∃ (s : State) (k : Nat), k < 16 ∧ s.keys.getLsbD k = true ∧
      ∀ j, j < k → s.keys.getLsbD j = false) ∧ ∃ s : State, s.keys = 0 :=
  ⟨⟨input 0x8000 0 start, 15, by decide⟩, start, by decide⟩
theorem witness_BlockedWaitKeyIsAStep :
    ∃ s : State, s.Fetches ∧ decodeWord s.fetchWord = .ok (.waitKey 2) ∧ s.keys = 0 :=
  ⟨holding 0xF20A, ⟨by decide, by decide, by decide, by decide⟩, by decide, by decide⟩

end Sys2Proof.Tests
end

section
/-!
SUPPORT. What one instruction can do, said once: the classes of instructions of 10_state.md R33, one
constructor of `Effect` per class, and what each effect changes and leaves alone.
-/

namespace Sys2Proof

/-- The destination `Vx` of an instruction that writes it without a flag (R33, R204 to R214, R226, R276,
R282). -/
def Instr.plainDest : Instr → Option RegIx
  | .loadImm x _ | .addImm x _ | .random x _ | .move x _ | .or x _ | .and x _ | .xor x _
  | .readDelay x | .waitKey x => some x
  | _ => none

/-- The destination `Vx` of an instruction that writes it together with the flag `VF` (R203, R216 to
R224). -/
def Instr.flaggedDest : Instr → Option RegIx
  | .add x _ | .sub x _ | .shiftRight x _ | .subn x _ | .shiftLeft x _ => some x
  | _ => none

/-- The instructions that transfer control without the stack (R33, R170, R282). -/
def Instr.transfers : Instr → Bool
  | .jump _ | .jumpOffset _ | .skipEqImm _ _ | .skipNeImm _ _ | .skipEqReg _ _ | .skipNeReg _ _
  | .skipKeyDown _ | .skipKeyUp _ | .waitKey _ => true
  | _ => false

/-- The instructions that write `I` (R33, R242 to R246). -/
def Instr.writesI : Instr → Bool
  | .loadAddr _ | .addAddr _ | .spriteAddr _ => true
  | _ => false

/-- The instructions that store to `MEM` (R33, R248, R252). -/
def Instr.stores : Instr → Bool
  | .bcd _ | .storeRegs _ => true
  | _ => false

/-- The instructions whose execute phase can halt (R302). -/
def Instr.canHalt : Instr → Bool
  | .ret | .call _ | .draw _ _ _ | .bcd _ | .storeRegs _ | .loadRegs _ | .skipKeyDown _
  | .skipKeyUp _ | .spriteAddr _ => true
  | _ => false

variable {i : Instr} {r : RegIx}

theorem Instr.eq_of_plainDest (h : i.plainDest = some r) :
    (∃ kk, i = .loadImm r kk ∨ i = .addImm r kk ∨ i = .random r kk) ∨
    (∃ y, i = .move r y ∨ i = .or r y ∨ i = .and r y ∨ i = .xor r y) ∨
    i = .readDelay r ∨ i = .waitKey r := by
  unfold Instr.plainDest at h
  split at h <;> cases h <;> simp

theorem Instr.eq_of_flaggedDest (h : i.flaggedDest = some r) :
    ∃ y, i = .add r y ∨ i = .sub r y ∨ i = .shiftRight r y ∨ i = .subn r y ∨ i = .shiftLeft r y := by
  unfold Instr.flaggedDest at h
  split at h <;> cases h <;> simp

theorem Instr.eq_of_transfers (h : i.transfers = true) :
    (∃ nnn, i = .jump nnn ∨ i = .jumpOffset nnn) ∨
    (∃ x kk, i = .skipEqImm x kk ∨ i = .skipNeImm x kk) ∨
    (∃ x y, i = .skipEqReg x y ∨ i = .skipNeReg x y) ∨
    ∃ x, i = .skipKeyDown x ∨ i = .skipKeyUp x ∨ i = .waitKey x := by
  unfold Instr.transfers at h
  split at h <;> simp at h ⊢

theorem Instr.eq_of_writesI (h : i.writesI = true) :
    (∃ nnn, i = .loadAddr nnn) ∨ (∃ x, i = .addAddr x) ∨ ∃ x, i = .spriteAddr x := by
  unfold Instr.writesI at h
  split at h <;> simp at h ⊢

theorem Instr.eq_of_stores (h : i.stores = true) : (∃ x, i = .bcd x) ∨ ∃ x, i = .storeRegs x := by
  unfold Instr.stores at h
  split at h <;> simp at h ⊢

theorem Instr.eq_of_canHalt (h : i.canHalt = true) :
    i = .ret ∨ (∃ nnn, i = .call nnn) ∨ (∃ x y n, i = .draw x y n) ∨
      ∃ x, i = .bcd x ∨ i = .storeRegs x ∨ i = .loadRegs x ∨ i = .skipKeyDown x ∨
        i = .skipKeyUp x ∨ i = .spriteAddr x := by
  unfold Instr.canHalt at h
  split at h <;> simp at h ⊢

end Sys2Proof

namespace Sys2Proof.Machine

/-- Where a transfer without the stack can take `PC`: on, past the next instruction, back to itself, or
to a jump target, "the largest value any rule can produce is 0x10FE" (R23, R170, R184, R282). -/
def State.PcTarget (s : State) (a : Word) : Prop :=
  a = s.pc ∨ a = s.pc + 2 ∨ a = s.pc - 2 ∨ a.toNat ≤ 0x10FE

/-- What an instruction can do to the state, by its class. -/
inductive Effect (s : State) : Instr → State → Prop
  /-- It halts, and nothing else (R133, R310). -/
  | halts {i c} (hi : i.canHalt = true) (hc : c ≠ .none) : Effect s i (s.halt c)
  | writesV {i x} (b : Byte) (hi : i.plainDest = some x) : Effect s i (s.writeV x b)
  | writesFlagged {i x} (o : AluOut) (hi : i.flaggedDest = some x) : Effect s i (s.writeFlagged x o)
  | loadsBlock (a : Nat) (x : RegIx) : Effect s (.loadRegs x) (s.loadBlock a x)
  | clears : Effect s .clear (s.writeDisp .blank)
  | draws {x y n} (d : Display) (f : Bool) :
    Effect s (.draw x y n) ((s.writeDisp d).writeV 0xF (flagByte f))
  | writesI {i} (a : Word) (hi : i.writesI = true) : Effect s i (s.writeI a)
  | stores {i} (a : Nat) (bs : List Byte) (hi : i.stores = true) : Effect s i (s.writeBytes a bs)
  | setsDelay (x : RegIx) (b : Byte) : Effect s (.setDelay x) (s.writeDt b)
  | setsSound (x : RegIx) (b : Byte) : Effect s (.setSound x) (s.writeSt b)
  | calls {nnn} (h : s.sp.val < 16) : Effect s (.call nnn) ((s.push s.pc h).setPc (zextAddr nnn))
  | returns (h : 0 < s.sp.val) : Effect s .ret (s.pop.setPc (s.top h))
  | transfers {i a} (hi : i.transfers = true) (ha : s.PcTarget a) : Effect s i (s.setPc a)

/-- A zero-extended address is the address (R93). -/
@[simp] theorem toNat_zextAddr (nnn : Addr) : (zextAddr nnn).toNat = nnn.toNat := by
  unfold zextAddr
  rw [BitVec.toNat_setWidth]
  have := nnn.isLt
  omega

/-- A zero-extended byte is the byte (R93). -/
@[simp] theorem toNat_zextByte (b : Byte) : (zextByte b).toNat = b.toNat := by
  unfold zextByte
  rw [BitVec.toNat_setWidth]
  have := b.isLt
  omega

/-- A jump's target is a 12-bit address (R174). -/
theorem pcTarget_zextAddr (s : State) (nnn : Addr) : s.PcTarget (zextAddr nnn) := by
  have := nnn.isLt
  exact .inr (.inr (.inr (by rw [toNat_zextAddr]; omega)))

/-- The largest target of `jump-offset` is 0xFFF + 0xFF (R23, R184). -/
theorem pcTarget_jumpOffset (s : State) (nnn : Addr) (b : Byte) :
    s.PcTarget (zextAddr nnn + zextByte b) := by
  have hn := nnn.isLt
  have hb := b.isLt
  refine .inr (.inr (.inr ?_))
  rw [BitVec.toNat_add, toNat_zextAddr, toNat_zextByte]
  omega

/-- A skip is a transfer, taken or not (R170). -/
theorem effect_skipIf {i : Instr} (s : State) (c : Bool) (hi : i.transfers = true) :
    Effect s i (s.skipIf c) := by
  cases c
  · exact .transfers hi (.inl rfl)
  · exact .transfers hi (.inr (.inl rfl))

/-- A guarded operation halts, or has the effect of its other branch (R310). -/
theorem effect_of_raise_or {i : Instr} {s t u : State} {g : Prop} [Decidable g] {c : Cause}
    (h : (if g then raise c s else .next u) = .next t) (hi : i.canHalt = true) (hc : c ≠ .none)
    (hu : Effect s i u) : Effect s i t := by
  split at h <;> cases h
  · exact .halts hi hc
  · exact hu

/-- Every instruction has one of the effects of its class. -/
theorem exec_effect {i : Instr} {s t : State} (h : exec i s = .next t) : Effect s i t := by
  cases i <;> simp only [exec] at h
  case clear => cases h; exact .clears
  case ret =>
    unfold execReturn raise at h
    split at h <;> cases h
    · exact .returns _
    · exact .halts rfl nofun
  case call =>
    unfold execCall raise at h
    split at h <;> cases h
    · exact .calls _
    · exact .halts rfl nofun
  case jump => cases h; exact .transfers rfl (pcTarget_zextAddr ..)
  case jumpOffset => cases h; exact .transfers rfl (pcTarget_jumpOffset ..)
  case skipEqImm | skipNeImm | skipEqReg | skipNeReg => cases h; exact effect_skipIf _ _ rfl
  case skipKeyDown | skipKeyUp => exact effect_of_raise_or h rfl nofun (effect_skipIf _ _ rfl)
  case waitKey =>
    cases h
    split
    · exact .transfers rfl (.inr (.inr (.inl rfl)))
    · exact .writesV _ rfl
  case loadImm | addImm | move | or | and | xor | random | readDelay => cases h; exact .writesV _ rfl
  case add | sub | subn | shiftRight | shiftLeft => cases h; exact .writesFlagged _ rfl
  case loadAddr | addAddr => cases h; exact .writesI _ rfl
  case spriteAddr => exact effect_of_raise_or h rfl nofun (.writesI _ rfl)
  case draw => exact effect_of_raise_or h rfl nofun (.draws _ _)
  case bcd | storeRegs => exact effect_of_raise_or h rfl nofun (.stores _ _ rfl)
  case loadRegs => exact effect_of_raise_or h rfl nofun (.loadsBlock _ _)
  case setDelay => cases h; exact .setsDelay _ _
  case setSound => cases h; exact .setsSound _ _

/-! ### The rows of R33: an effect that changes a part of the state is of an instruction listed there -/

namespace Effect

variable {i : Instr} {s t : State}

/-- A `V` register changes as a destination, in a block load, or as the flag, which `draw` sets to 0 or
1 (R21). -/
theorem readV_changed (h : Effect s i t) {r : RegIx} (hr : t.readV r ≠ s.readV r) :
    i.plainDest = some r ∨ i.flaggedDest = some r ∨ (∃ x, i = .loadRegs x ∧ r.toNat ≤ x.toNat) ∨
      (r = 0xF ∧ ((∃ x, i.flaggedDest = some x) ∨
        ∃ x y n f, i = .draw x y n ∧ t.readV 0xF = flagByte f)) := by
  cases h with
  | @writesV i x b hi =>
    rw [readV_writeV] at hr
    by_cases hx : r = x
    · exact .inl (hx ▸ hi)
    · rw [if_neg hx] at hr
      exact absurd rfl hr
  | @writesFlagged i x o hi =>
    rw [readV_writeFlagged] at hr
    by_cases hx : r = x
    · exact .inr (.inl (hx ▸ hi))
    · by_cases hF : r = 0xF
      · exact .inr (.inr (.inr ⟨hF, .inl ⟨x, hi⟩⟩))
      · rw [if_neg hx, if_neg hF] at hr
        exact absurd rfl hr
  | loadsBlock a x =>
    rw [readV_loadBlock] at hr
    by_cases hle : r.toNat ≤ x.toNat
    · exact .inr (.inr (.inl ⟨x, rfl, hle⟩))
    · rw [if_neg hle] at hr
      exact absurd rfl hr
  | @draws x y n d f =>
    rw [readV_writeV] at hr
    by_cases hF : r = 0xF
    · exact .inr (.inr (.inr ⟨hF, .inr ⟨x, y, n, f, rfl, by rw [readV_writeV, if_pos rfl]⟩⟩))
    · rw [if_neg hF] at hr
      exact absurd rfl hr
  | _ => exact absurd rfl hr

theorem stack_changed (h : Effect s i t) (hne : t.stack ≠ s.stack) : ∃ nnn, i = .call nnn := by
  cases h with
  | calls => exact ⟨_, rfl⟩
  | _ => exact absurd rfl hne

theorem sp_changed (h : Effect s i t) (hne : t.sp ≠ s.sp) : i = .ret ∨ ∃ nnn, i = .call nnn := by
  cases h with
  | calls => exact .inr ⟨_, rfl⟩
  | returns => exact .inl rfl
  | _ => exact absurd rfl hne

theorem i_changed (h : Effect s i t) (hne : t.i ≠ s.i) : i.writesI = true := by
  cases h with
  | writesI a hi => exact hi
  | _ => exact absurd rfl hne

theorem disp_changed (h : Effect s i t) (hne : t.disp ≠ s.disp) :
    i = .clear ∨ ∃ x y n, i = .draw x y n := by
  cases h with
  | clears => exact .inl rfl
  | draws => exact .inr ⟨_, _, _, rfl⟩
  | _ => exact absurd rfl hne

theorem mem_changed (h : Effect s i t) (hne : t.mem ≠ s.mem) : i.stores = true := by
  cases h with
  | stores a bs hi => exact hi
  | _ => exact absurd rfl hne

theorem dt_changed (h : Effect s i t) (hne : t.dt ≠ s.dt) : ∃ x, i = .setDelay x := by
  cases h with
  | setsDelay => exact ⟨_, rfl⟩
  | _ => exact absurd rfl hne

theorem st_changed (h : Effect s i t) (hne : t.st ≠ s.st) : ∃ x, i = .setSound x := by
  cases h with
  | setsSound => exact ⟨_, rfl⟩
  | _ => exact absurd rfl hne

theorem pc_changed (h : Effect s i t) (hne : t.pc ≠ s.pc) :
    i = .ret ∨ (∃ nnn, i = .call nnn) ∨ i.transfers = true := by
  cases h with
  | calls => exact .inr (.inl ⟨_, rfl⟩)
  | returns => exact .inl rfl
  | transfers hi => exact .inr (.inr hi)
  | _ => exact absurd rfl hne

/-- Only a halt changes `STATUS` and `CAUSE`, and it changes nothing else (R133, R310). -/
theorem status_changed (h : Effect s i t) (hne : t.status ≠ s.status ∨ t.cause ≠ s.cause) :
    t = s.halt t.cause ∧ i.canHalt = true := by
  cases h with
  | halts hi => exact ⟨rfl, hi⟩
  | _ => exact absurd ⟨rfl, rfl⟩ (not_and_or.mpr hne)

/-- No instruction changes the configuration (R43). -/
theorem cfg_eq (h : Effect s i t) : t.cfg = s.cfg := by cases h <;> rfl

/-- No instruction changes the input schedule: `endOfStep` takes the input (log 1). -/
theorem inputs_eq (h : Effect s i t) : t.inputs = s.inputs ∧ t.inputNo = s.inputNo := by
  cases h <;> exact ⟨rfl, rfl⟩

end Effect

end Sys2Proof.Machine
end

section
/-!
The obligations on what an instruction may write (10_state.md R21, R33, R43), read off `Effect`.
-/

namespace Sys2Proof.Machine

/-- Settles O19: each row is the row of `Effect` with its class of instructions written out. -/
theorem onlyTheListedInstructionsWrite : Obligations.OnlyTheListedInstructionsWrite := by
  intro i s t h
  have e := exec_effect h
  refine ⟨fun r hr => ?_, e.stack_changed, e.sp_changed, fun hne => Instr.eq_of_writesI (e.i_changed hne),
    e.disp_changed, fun hne => Instr.eq_of_stores (e.mem_changed hne), e.dt_changed, e.st_changed,
    fun hne => ?_, fun hne => ?_, e.cfg_eq, e.inputs_eq⟩
  · obtain hd | hf | hl | ⟨hF, ⟨x, hf⟩ | ⟨x, y, n, _, hi, -⟩⟩ := e.readV_changed hr
    · obtain hk | ⟨y, hy⟩ | hi | hi := Instr.eq_of_plainDest hd
      · exact .inl hk
      · exact .inr (.inl ⟨y, by tauto⟩)
      · exact .inr (.inr (.inl hi))
      · exact .inr (.inr (.inr (.inl hi)))
    · obtain ⟨y, hy⟩ := Instr.eq_of_flaggedDest hf
      exact .inr (.inl ⟨y, by tauto⟩)
    · exact .inr (.inr (.inr (.inr (.inl hl))))
    · exact .inr (.inr (.inr (.inr (.inr ⟨hF, .inr ⟨x, Instr.eq_of_flaggedDest hf⟩⟩))))
    · exact .inr (.inr (.inr (.inr (.inr ⟨hF, .inl ⟨x, y, n, hi⟩⟩))))
  · obtain hi | ⟨nnn, hi⟩ | hi := e.pc_changed hne
    · exact .inl hi
    · exact .inr (.inl ⟨nnn, .inr (.inl hi)⟩)
    · obtain ⟨nnn, hi⟩ | hskip := Instr.eq_of_transfers hi
      · exact .inr (.inl ⟨nnn, hi.imp_right .inr⟩)
      · exact .inr (.inr hskip)
  · obtain ⟨ht, hi⟩ := e.status_changed hne
    exact ⟨ht, Instr.eq_of_canHalt hi⟩

/-- Settles O20: of the ways in which a register can change, with `VF` for the register. -/
theorem flagIsWrittenOnlyByItsSix : Obligations.FlagIsWrittenOnlyByItsSix := by
  intro i s t h hne
  have ofFlaggedDest {x} (hf : i.flaggedDest = some x) : ∃ x y, i = .add x y ∨ i = .sub x y ∨
      i = .subn x y ∨ i = .shiftRight x y ∨ i = .shiftLeft x y := by
    obtain ⟨y, hy⟩ := Instr.eq_of_flaggedDest hf
    exact ⟨x, y, by tauto⟩
  obtain hd | hf | ⟨x, hi, hle⟩ | ⟨-, ⟨x, hf⟩ | ⟨x, y, n, f, hi, hv⟩⟩ :=
    (exec_effect h).readV_changed hne
  · obtain hk | hy | hi | hi := Instr.eq_of_plainDest hd
    · exact .inr (.inr (.inl hk))
    · exact .inr (.inr (.inr (.inl hy)))
    · exact .inr (.inr (.inr (.inr (.inl hi))))
    · exact .inr (.inr (.inr (.inr (.inr (.inl hi)))))
  · exact .inl (ofFlaggedDest hf)
  · have hx : x = 0xF := BitVec.eq_of_toNat_eq (Nat.le_antisymm (Nat.le_of_lt_succ x.isLt) hle)
    exact .inr (.inr (.inr (.inr (.inr (.inr (hx ▸ hi))))))
  · exact .inl (ofFlaggedDest hf)
  · refine .inr (.inl ⟨x, y, n, hi, ?_⟩)
    rw [hv]
    cases f
    · exact .inl rfl
    · exact .inr rfl

/-- Settles O22: of the four kinds of step none writes the configuration. -/
theorem configurationIsConstant : Obligations.ConfigurationIsConstant := by
  intro s t h
  obtain ⟨-, rfl⟩ | ⟨-, c, -, rfl⟩ | ⟨-, -, -, rfl⟩ | ⟨-, -, i, u, -, hx, rfl⟩ := step_cases h
  · rfl
  · rfl
  · rfl
  · exact (exec_effect hx).cfg_eq

end Sys2Proof.Machine
end

section
/-!
The invariant of the machine (10_state.md R23, R24, R30): every step keeps it, and it holds at reset and at
every launch.
-/

namespace Sys2Proof.Machine

/-- A halt with a cause keeps the invariant (R310). -/
theorem State.Inv.halt {s : State} (h : s.Inv) {c : Cause} (hc : c ≠ .none) : (s.halt c).Inv where
  mem_wf := h.mem_wf
  cfg_wf := h.cfg_wf
  pc_bound := h.pc_bound
  stack_live := h.stack_live
  cause_iff := ⟨nofun, fun e => absurd e hc⟩

/-- A transfer within the bound of `PC` keeps the invariant (R23). -/
theorem State.Inv.setPc {s : State} (h : s.Inv) {a : Word} (ha : a.toNat ≤ 0x10FE) : (s.setPc a).Inv :=
  { h with pc_bound := ha }

/-- Taking the input keeps the invariant (log 1). -/
theorem State.Inv.consumeInput {s : State} (h : s.Inv) : s.consumeInput.Inv := { h with }

/-- Stores keep the invariant. -/
theorem State.Inv.writeBytes {s : State} (h : s.Inv) (a : Nat) (bs : List Byte) :
    (s.writeBytes a bs).Inv :=
  { h with mem_wf := Memory.wf_writeBytes a bs h.mem_wf }

/-- A push of an even address of at most 0x1000 keeps the invariant (R172, R176). -/
theorem State.Inv.push {s : State} (h : s.Inv) {a : Word} (hsp : s.sp.val < 16)
    (heven : a.toNat % 2 = 0) (hle : a.toNat ≤ 0x1000) : (s.push a hsp).Inv where
  mem_wf := h.mem_wf
  cfg_wf := h.cfg_wf
  pc_bound := h.pc_bound
  stack_live k hk := by
    rw [push_sp] at hk
    rw [push_stack_get]
    by_cases he : k.val = s.sp.val
    · rw [if_pos he]
      exact ⟨heven, hle⟩
    · rw [if_neg he]
      exact h.stack_live k (by omega)
  cause_iff := h.cause_iff

/-- A pop keeps the invariant: fewer entries are live (R172). -/
theorem State.Inv.pop {s : State} (h : s.Inv) : s.pop.Inv where
  mem_wf := h.mem_wf
  cfg_wf := h.cfg_wf
  pc_bound := h.pc_bound
  stack_live k hk := h.stack_live k (by rw [pop_sp] at hk; omega)
  cause_iff := h.cause_iff

/-- The top of the stack is a live entry (R172). -/
theorem State.Inv.top_le {s : State} (h : s.Inv) (hsp : 0 < s.sp.val) : (s.top hsp).toNat ≤ 0x1000 :=
  (h.stack_live ⟨s.sp.val - 1, by omega⟩ (Nat.sub_lt hsp Nat.one_pos)).2

/-- `PC` as the execute phase finds it: past a word fetched at an even address below 0x0FFF (R121 to
R123). -/
structure State.PcFetched (s : State) : Prop where
  lower : 2 ≤ s.pc.toNat
  upper : s.pc.toNat ≤ 0x1000
  even : s.pc.toNat % 2 = 0

/-- The fetch leaves `PC` as the execute phase finds it. -/
theorem pcFetched_fetched {s : State} (h : s.preFetchHalt = none) : s.fetched.PcFetched := by
  obtain ⟨-, hlt, heven⟩ := (preFetchHalt_eq_none_iff s).1 h
  have hpc : s.fetched.pc.toNat = s.pc.toNat + 2 := by
    rw [State.fetched, tick_pc, advancePc_pc]
    bv_omega
  exact ⟨by omega, by omega, by omega⟩

/-- Fetch and tick keep the invariant. -/
theorem State.Inv.fetched {s : State} (h : s.Inv) (hn : s.preFetchHalt = none) : s.fetched.Inv :=
  { h with pc_bound := Nat.le_trans (pcFetched_fetched hn).upper (by decide) }

/-- After a fetch every transfer stays in the bound of `PC` (R23). -/
theorem State.PcFetched.target_le {s : State} (h : s.PcFetched) {a : Word} (ha : s.PcTarget a) :
    a.toNat ≤ 0x10FE := by
  obtain ⟨hl, hu, -⟩ := h
  obtain rfl | rfl | rfl | ha := ha
  · omega
  · bv_omega
  · bv_omega
  · exact ha

/-- Every instruction keeps the invariant in the state after a fetch. -/
theorem Effect.keeps_inv {i : Instr} {s t : State} (e : Effect s i t) (h : s.Inv)
    (hpc : s.PcFetched) : t.Inv := by
  cases e with
  | halts hi hc => exact h.halt hc
  | stores a bs => exact h.writeBytes a bs
  | @calls nnn hsp =>
    exact (h.push hsp hpc.even hpc.upper).setPc (by rw [toNat_zextAddr]; have := nnn.isLt; omega)
  | returns hsp => exact h.pop.setPc (Nat.le_trans (h.top_le hsp) (by decide))
  | transfers hi ha => exact h.setPc (hpc.target_le ha)
  | _ => exact { h with }

/-- A halt before the fetch names a cause (R121, R122). -/
theorem preFetchHalt_ne_none {s : State} {c : Cause} (h : s.preFetchHalt = some c) : c ≠ .none := by
  obtain ⟨rfl, -⟩ | ⟨rfl, -⟩ | ⟨rfl, -⟩ := preFetchHalt_cases h <;> nofun

/-- Settles O24: of the four kinds of step, two are halts, and the instruction's runs after a fetch,
which bounds `PC` and makes it even. -/
theorem everyStepKeepsTheInvariant : Obligations.EveryStepKeepsTheInvariant := by
  intro s t h hstep
  obtain ⟨-, rfl⟩ | ⟨-, c, hc, rfl⟩ | ⟨-, hn, -, rfl⟩ | ⟨-, hn, i, u, -, hx, rfl⟩ := step_cases hstep
  · exact h
  · exact h.halt (preFetchHalt_ne_none hc)
  · exact (h.fetched hn).halt nofun
  · exact ((exec_effect hx).keeps_inv (h.fetched hn) (pcFetched_fetched hn)).consumeInput

/-- A launch that answers a state fits, and answers the reset state with font, program and
configuration (R354). -/
theorem launch_eq_next {s t : State} {l : LaunchPlan} (h : s.launch l = .next t) :
    l.fits = true ∧ t = { (s.rst.writeBytes l.fontBase.toNat l.fontData.toList).writeBytes 0x200
      l.program with cfg := launchConfig l } := by
  unfold State.launch at h
  split at h
  · cases h
  · split at h
    · cases h
    · next hf hp =>
      cases h
      simp only [Bool.not_eq_true', Bool.not_eq_false] at hf hp
      exact ⟨by rw [LaunchPlan.fits, hf, hp]; rfl, rfl⟩

/-- `rst` gives the invariant where memory and configuration have it (R350). -/
theorem inv_rst {s : State} (hm : s.mem.wf = true) (hc : s.cfg.wellFormed = true) : s.rst.Inv where
  mem_wf := hm
  cfg_wf := hc
  pc_bound := show (0x200 : Word).toNat ≤ 0x10FE by decide
  stack_live k hk := absurd hk (Nat.not_lt_zero _)
  cause_iff := ⟨fun _ => rfl, fun _ => rfl⟩

/-- Settles O25: both states are a reset with canonical memory and a legal configuration. -/
theorem invariantHoldsAtResetAndLaunch : Obligations.InvariantHoldsAtResetAndLaunch := by
  refine ⟨inv_rst (s := .reset) reset_mem_wf (by decide), fun s t l hm h => ?_⟩
  obtain ⟨hfit, rfl⟩ := launch_eq_next h
  have hmem := Memory.wf_writeBytes 0x200 l.program
    (Memory.wf_writeBytes l.fontBase.toNat l.fontData.toList hm)
  exact { inv_rst (s := { s with mem := _, cfg := launchConfig l }) hmem
    (launchConfig_wellFormed hfit).2 with }

end Sys2Proof.Machine
end

section
/-!
The outputs of a step (10_state.md R46).
-/

namespace Sys2Proof.Machine

/-- The engine fetches when it runs and no test before the fetch halts it (R120). -/
theorem fetches_iff (s : State) : s.Fetches ↔ s.status = .running ∧ s.preFetchHalt = none := by
  rw [preFetchHalt_eq_none_iff]
  exact ⟨fun ⟨hr, he, hb, hv⟩ => ⟨hr, he, hb, hv⟩, fun ⟨hr, he, hb, hv⟩ => ⟨hr, he, hb, hv⟩⟩

/-- A step with outputs is the step, with the outputs of its two states. -/
theorem stepWithOutputs_eq_next {s t : State} {o : Outputs} (h : stepWithOutputs s = .next (t, o)) :
    step s = .next t ∧ o = outputs s t := by
  unfold stepWithOutputs at h
  split at h <;> cases h
  exact ⟨‹_›, rfl⟩

/-- The strobe is raised when the engine ran before and after the step. -/
theorem repaint_iff (s t : State) : repaint s t = true ↔ s.status = .running ∧ t.status = .running := by
  simp [repaint]

/-- A running engine still runs after a step exactly when the step fetched an instruction whose execute
phase did not halt (R46, R120). -/
theorem step_keeps_running_iff {s t : State} (h : step s = .next t) :
    (s.status = .running ∧ t.status = .running) ↔
      s.Fetches ∧ ∃ i u, decodeWord s.fetchWord = .ok i ∧ exec i s.fetched = .next u ∧
        u.status = .running := by
  rw [fetches_iff]
  constructor
  · rintro ⟨hs, ht⟩
    obtain ⟨hh, -⟩ | ⟨-, c, -, rfl⟩ | ⟨-, -, -, rfl⟩ | ⟨-, hn, i, u, hd, hx, rfl⟩ := step_cases h
    · rw [hs] at hh
      cases hh
    · cases ht
    · cases ht
    · exact ⟨⟨hs, hn⟩, i, u, hd, hx, ht⟩
  · rintro ⟨⟨hs, hn⟩, i, u, hd, hx, hu⟩
    rw [step_of_fetch hs hn, executeWord_of_ok _ hd, hx] at h
    cases h
    exact ⟨hs, hu⟩

/-- Settles O23: the outputs are read off the state after the step, and the strobe is the engine still
running. -/
theorem outputsFollowTheStep : Obligations.OutputsFollowTheStep := by
  intro s t o h
  obtain ⟨hstep, rfl⟩ := stepWithOutputs_eq_next h
  refine ⟨hstep, beq_iff_eq, rfl, rfl, ?_, ?_, fun _ _ => rfl, ?_⟩
  · show t.cause.code.toNat = _
    cases t.cause <;> rfl
  · show (t.st != 0) = true ↔ _
    rw [bne_iff_ne, ← BitVec.toNat_inj.ne]
    rfl
  · exact (repaint_iff s t).trans (step_keeps_running_iff hstep)

end Sys2Proof.Machine
end

section
/-!
Reset, and the moves of the host (10_state.md R41, R47, R350).
-/

namespace Sys2Proof.Machine

/-- Settles O7: both states have the registers of `State.reset`, and `rst` keeps memory. -/
theorem resetPutsEveryRegisterAtItsValue : Obligations.ResetPutsEveryRegisterAtItsValue := by
  rintro s t (rfl | rfl) <;>
    exact ⟨fun r => by simp [State.readV, State.rst, State.reset], rfl, rfl, rfl,
      fun k => by simp [State.rst, State.reset], rfl, rfl, get_blank, rfl, rfl, fun _ => rfl⟩

/-- Every step answers a next state (log 4). -/
theorem step_answers_next (s : State) : ∃ t, step s = .next t := by
  cases hs : s.status with
  | halted => exact ⟨s, step_of_halted hs⟩
  | running =>
    cases hc : s.preFetchHalt with
    | some c => exact ⟨_, step_of_preFetchHalt hs hc⟩
    | none =>
      rw [step_of_fetch hs hc]
      cases hd : decodeWord s.fetchWord with
      | error e => exact ⟨_, executeWord_of_error _ hd⟩
      | ok i =>
        obtain ⟨u, hu⟩ := exec_answers_next i s.fetched
        exact ⟨u.consumeInput, by rw [executeWord_of_ok _ hd, hu]; rfl⟩

/-- While `rst` is released a step move is the step with its sample (R41, R42). -/
theorem move_step_of_released {b : Block} (hb : b.rst = false) {inp : StepInput} {t : State}
    (ht : step (b.state.withInput inp) = .next t) :
    b.move (.step inp) = some ⟨{ t with inputs := b.state.inputs }, false⟩ := by
  simp [Block.move, Block.stepWith, hb, ht]

/-- While `rst` is released the host can only assert it or step (R47). -/
theorem move_of_released {b : Block} (hb : b.rst = false) (m : HostMove) :
    b.move m ≠ none ↔ m = .assertRst ∨ ∃ inp, m = .step inp := by
  constructor
  · intro hm
    have hn : b.rst ≠ true := by simp [hb]
    obtain ⟨b', hb'⟩ := Option.ne_none_iff_exists'.1 hm
    obtain ⟨rfl, -⟩ | ⟨hr, -⟩ | ⟨hr, -⟩ | ⟨hr, -⟩ | ⟨-, inp, t, rfl, -⟩ := move_cases hb'
    · exact .inl rfl
    · exact absurd hr hn
    · exact absurd hr hn
    · exact absurd hr hn
    · exact .inr ⟨inp, rfl⟩
  · rintro (rfl | ⟨inp, rfl⟩)
    · exact Option.some_ne_none _
    · obtain ⟨t, ht⟩ := step_answers_next (b.state.withInput inp)
      rw [move_step_of_released hb ht]
      exact Option.some_ne_none _

/-- While `rst` is asserted a load stores its byte (R41). -/
theorem move_load_of_asserted {b : Block} (hb : b.rst = true) (a : Addr) (v : Byte) :
    b.move (.load a v) = some ⟨b.state.rst.writeBytes a.toNat [v], true⟩ := by
  simp [Block.move, Block.loadPort, hb]

/-- While `rst` is asserted a move leaves the registers at their reset values, and writes `MEM` as a load
alone, the configuration as a `configure` alone (R41, R43). -/
theorem move_of_asserted {b b' : Block} {m : HostMove} (hb : b.rst = true) (hm : b.move m = some b') :
    b'.state = b'.state.rst ∧ ((∀ a v, m ≠ .load a v) → b'.state.mem = b.state.mem) ∧
      ((∀ c, m ≠ .configure c) → b'.state.cfg = b.state.cfg) := by
  obtain ⟨-, rfl⟩ | ⟨-, a, v, rfl, rfl⟩ | ⟨-, c, rfl, rfl⟩ | ⟨-, -, -, rfl⟩ | ⟨hr, -⟩ := move_cases hm
  · exact ⟨rfl, fun _ => rfl, fun _ => rfl⟩
  · exact ⟨rfl, fun hne => absurd rfl (hne a v), fun _ => rfl⟩
  · exact ⟨rfl, fun _ => rfl, fun hne => absurd rfl (hne c)⟩
  · exact ⟨rfl, fun _ => rfl, fun _ => rfl⟩
  · simp [hb] at hr

/-- Settles O50: which moves there are at each level of `rst`, and what each leaves alone. -/
theorem hostHasOnlyTheAllowedMoves : Obligations.HostHasOnlyTheAllowedMoves := by
  intro b m
  refine ⟨fun hb => ⟨move_of_released hb m, fun inp => ?_⟩, fun hb => ⟨fun inp => ?_, fun a v => ?_,
    fun b' => move_of_asserted hb⟩, rfl⟩
  · obtain ⟨t, ht⟩ := step_answers_next (b.state.withInput inp)
    exact ⟨t, ht, move_step_of_released hb ht⟩
  · simp [Block.move, Block.stepWith, hb]
  · refine ⟨_, move_load_of_asserted hb a v, rfl, fun c => ?_⟩
    exact Memory.read_write b.state.mem a.toNat c v a.isLt

end Sys2Proof.Machine
end

section
/-!
The decoder and the encoder are inverse to each other (30_encoding.md R90 to R96), on words and at the head
of a byte stream (20_memory.md R67).
-/

namespace Sys2Proof

/-! ### A word is made of its fields (R91, R92) -/

section Fields

variable {w : Word} {op : BitVec 4}

theorem wordNNN_of_fields (hop : (opField w).toNat = op.toNat) : wordNNN op (nnnField w) = w := by
  obtain rfl := BitVec.eq_of_toNat_eq hop
  unfold wordNNN opField nnnField
  refine BitVec.eq_of_getLsbD_eq fun i hi => ?_
  interval_cases i <;> simp only [BitVec.getLsbD_extractLsb', BitVec.getLsbD_append] <;> rfl

theorem wordXKK_of_fields {kk : Byte} (hop : (opField w).toNat = op.toNat) (hkk : kkField w = kk) :
    wordXKK op (xField w) kk = w := by
  obtain rfl := BitVec.eq_of_toNat_eq hop
  subst hkk
  unfold wordXKK opField xField kkField
  refine BitVec.eq_of_getLsbD_eq fun i hi => ?_
  interval_cases i <;> simp only [BitVec.getLsbD_extractLsb', BitVec.getLsbD_append] <;> rfl

theorem wordXYN_of_fields {n : BitVec 4} (hop : (opField w).toNat = op.toNat)
    (hn : (nField w).toNat = n.toNat) : wordXYN op (xField w) (yField w) n = w := by
  obtain rfl := BitVec.eq_of_toNat_eq hop
  obtain rfl := BitVec.eq_of_toNat_eq hn
  unfold wordXYN opField xField yField nField
  refine BitVec.eq_of_getLsbD_eq fun i hi => ?_
  interval_cases i <;> simp only [BitVec.getLsbD_extractLsb', BitVec.getLsbD_append] <;> rfl

end Fields

/-! ### Decoding the encoding -/

/-- Decoding the word of an instruction gives the instruction, by format: the family field picks the branch
of the decoder, and the other fields are the operands (R94, R96). -/
theorem decodeWord_encode (i : Instr) : decodeWord (encode i) = .ok i := by
  cases i
  case clear | ret => rfl
  case jump | call | loadAddr | jumpOffset =>
    simp [encode, decodeWord, opField_wordNNN, nnnField_wordNNN]
  case skipEqImm | skipNeImm | loadImm | addImm | random =>
    simp [encode, decodeWord, opField_wordXKK, xField_wordXKK, kkField_wordXKK]
  case skipEqReg | skipNeReg | draw =>
    simp [encode, decodeWord, opField_wordXYN, xField_wordXYN, yField_wordXYN, nField_wordXYN]
  case move | or | and | xor | add | sub | shiftRight | subn | shiftLeft =>
    simp [encode, decodeWord, decodeFamily8, opField_wordXYN, xField_wordXYN, yField_wordXYN,
      nField_wordXYN]
  case skipKeyDown | skipKeyUp =>
    simp [encode, decodeWord, decodeFamilyE, opField_wordXKK, xField_wordXKK, kkField_wordXKK]
  case readDelay | waitKey | setDelay | setSound | addAddr | spriteAddr | bcd | storeRegs | loadRegs =>
    simp [encode, decodeWord, decodeFamilyF, opField_wordXKK, xField_wordXKK, kkField_wordXKK]

/-! ### Encoding the decoded word -/

section Families

variable {w : Word} {i : Instr}

theorem encode_of_decodeFamily8 (hop : (opField w).toNat = 0x8) (h : decodeFamily8 w = .ok i) :
    encode i = w := by
  unfold decodeFamily8 at h
  split at h <;> cases h <;> exact wordXYN_of_fields hop ‹_›

theorem encode_of_decodeFamilyE (hop : (opField w).toNat = 0xE) (h : decodeFamilyE w = .ok i) :
    encode i = w := by
  unfold decodeFamilyE at h
  split_ifs at h <;> cases h <;> exact wordXKK_of_fields hop ‹_›

theorem encode_of_decodeFamilyF (hop : (opField w).toNat = 0xF) (h : decodeFamilyF w = .ok i) :
    encode i = w := by
  unfold decodeFamilyF at h
  split_ifs at h <;> cases h <;> exact wordXKK_of_fields hop ‹_›

/-- A word that decodes is the word of its instruction: by the branches of the decoder, `h_1` to `h_16` for
the families 0 to F (R94). -/
theorem encode_of_decodeWord (h : decodeWord w = .ok i) : encode i = w := by
  unfold decodeWord at h
  split at h
  case h_1 hop => split_ifs at h <;> cases h <;> exact Eq.symm ‹_›
  case h_2 hop | h_3 hop | h_11 hop | h_12 hop => cases h; exact wordNNN_of_fields hop
  case h_4 hop | h_5 hop | h_7 hop | h_8 hop | h_13 hop => cases h; exact wordXKK_of_fields hop rfl
  case h_6 hop | h_10 hop =>
    split_ifs at h with hn
    cases h
    exact wordXYN_of_fields hop (congrArg BitVec.toNat hn)
  case h_9 hop => exact encode_of_decodeFamily8 hop h
  case h_14 hop => cases h; exact wordXYN_of_fields hop rfl
  case h_15 hop => exact encode_of_decodeFamilyE hop h
  case h_16 hop => exact encode_of_decodeFamilyF hop h
  case h_17 => cases h

/-- The words that decode to an instruction are its encoding alone. -/
theorem decodeWord_eq_ok_iff : decodeWord w = .ok i ↔ encode i = w :=
  ⟨encode_of_decodeWord, fun h => h ▸ decodeWord_encode i⟩

end Families

/-! ### The head of a byte stream (R67, R90) -/

/-- A stream decodes by the word of its first two bytes, the rest left. -/
theorem decode_cons_cons_eq_ok_iff {hi lo : Byte} {i : Instr} {rest : List Byte} :
    decode (hi :: lo :: rest) = .ok (i, rest) ↔ decodeWord (wordOfBytes hi lo) = .ok i := by
  cases hd : decodeWord (wordOfBytes hi lo) <;> simp [decode, hd]

/-- Two bytes are an instruction's exactly when their word, the high byte first, is its encoding. -/
theorem encodeBytes_eq_iff {hi lo : Byte} {i : Instr} :
    encodeBytes i = [hi, lo] ↔ encode i = wordOfBytes hi lo := by
  constructor
  · intro h
    obtain ⟨rfl, rfl⟩ : highByte (encode i) = hi ∧ lowByte (encode i) = lo := by
      simpa [encodeBytes] using h
    exact (wordOfBytes_bytes _).symm
  · intro h
    rw [encodeBytes, h, highByte_wordOfBytes, lowByte_wordOfBytes]

/-- A stream decodes to an instruction exactly when the instruction's two bytes stand at its head. -/
theorem decode_eq_ok_iff {hi lo : Byte} {i : Instr} {rest : List Byte} :
    decode (hi :: lo :: rest) = .ok (i, rest) ↔ encodeBytes i = [hi, lo] := by
  rw [decode_cons_cons_eq_ok_iff, decodeWord_eq_ok_iff, encodeBytes_eq_iff]

/-- Settles O6: both directions of `decode_eq_ok_iff`. -/
theorem byteStreamDecodes : Obligations.ByteStreamDecodes :=
  ⟨fun _ _ => decode_eq_ok_iff.2 rfl, fun _ _ _ _ => decode_eq_ok_iff.1, rfl, fun _ => rfl⟩

end Sys2Proof
end

section
/-!
Stores that the next fetch sees (20_memory.md R67, R82).
-/

namespace Sys2Proof.Machine

/-- The value of a word by its bytes (R67). -/
theorem toNat_wordOfBytes (hi lo : Byte) : (wordOfBytes hi lo).toNat = hi.toNat * 256 + lo.toNat := by
  unfold wordOfBytes
  rw [BitVec.toNat_append, ← Nat.shiftLeft_add_eq_or_of_lt lo.isLt, Nat.shiftLeft_eq]

/-- `store-regs` in range stores the register block and does nothing else (R72, R252). -/
theorem exec_storeRegs_of_inRange {x : RegIx} {s : State} (h : s.i.toNat + x.toNat ≤ 0xFFF) :
    exec (.storeRegs x) s = .next (s.writeBytes s.i.toNat (s.regBlock x)) := by
  have hin : ¬ outOfRange s.i.toNat (x.toNat + 1) = true := by
    rw [outOfRange_iff]
    omega
  exact if_neg hin

/-- The byte at `I + k` after the register block is stored is `Vk` (R252). -/
theorem readByte_writeBytes_regBlock {x k : RegIx} {s : State} (h : s.i.toNat + x.toNat ≤ 0xFFF)
    (hk : k.toNat ≤ x.toNat) :
    (s.writeBytes s.i.toNat (s.regBlock x)).readByte (s.i.toNat + k.toNat) = s.readV k := by
  have hlen := length_regBlock s x
  rw [readByte_writeBytes _ _ _ _ (by omega), if_pos (by omega), Nat.add_sub_cancel_left,
    getD_regBlock s x k hk]

/-- Settles O45: the fetch reads its two bytes at `I + k` and `I + (k + 1)`, which hold `Vk` and
`V(k + 1)`. -/
theorem nextFetchSeesTheStore : Obligations.NextFetchSeesTheStore := by
  intro x k s hrange hk hpc
  have hsucc : (k + 1).toNat = k.toNat + 1 := by
    have := x.isLt
    bv_omega
  refine ⟨_, exec_storeRegs_of_inRange hrange, ?_⟩
  show (wordOfBytes ((s.writeBytes _ _).readByte s.pc.toNat)
    ((s.writeBytes _ _).readByte (s.pc.toNat + 1))).toNat = _
  rw [hpc, Nat.add_assoc, ← hsucc, readByte_writeBytes_regBlock hrange (by omega),
    readByte_writeBytes_regBlock hrange (by omega), toNat_wordOfBytes]

end Sys2Proof.Machine
end

section
/-!
The opcode map and the undefined words (30_encoding.md R94 to R101): the words that select a row are the
words that decode to an instruction of the row, and every other word is one of R100's list.
-/

namespace Sys2Proof

/-! ### The round trips -/

/-- Settles O2: `decodeWord_encode`, by the formats of R92. -/
theorem decodeOfEncodeIsIdentity : Obligations.DecodeOfEncodeIsIdentity := decodeWord_encode

/-- Settles O3: `encode_of_decodeWord`, by the branches of the decoder. -/
theorem encodeOfDecodeIsTheWord : Obligations.EncodeOfDecodeIsTheWord := fun _ _ => encode_of_decodeWord

/-- Settles O1: each word is the encoding of its instruction. -/
theorem writtenOutWordsDecode : Obligations.WrittenOutWordsDecode :=
  ⟨decodeWord_encode .clear, decodeWord_encode (.call 0xA5C), decodeWord_encode (.loadImm 0xA 0x2C),
    decodeWord_encode (.add 0x1 0xF), decodeWord_encode (.draw 0x1 0x2 0xF),
    decodeWord_encode (.skipKeyUp 0x7), decodeWord_encode (.bcd 0xC)⟩

/-! ### The rows of the opcode map (R96) -/

/-- The row of every instruction stands in the table. -/
theorem row_mem_opcodeTable (i : Instr) : i.row ∈ opcodeTable := by
  cases i <;> simp [opcodeTable, Instr.row]

/-- Every row of the table is the row of an instruction. -/
theorem exists_row_of_mem_opcodeTable : ∀ row ∈ opcodeTable, ∃ i : Instr, i.row = row := by
  simp [opcodeTable, or_imp, forall_and]

open Laws in
/-- The word of an instruction selects the instruction's row: the laws of `EncodesItsRow` for every
instruction. -/
theorem row_selects_encode (i : Instr) : i.row.selects (encode i) = true := by
  cases i
  exacts [EncodesItsRow.clear, EncodesItsRow.ret, EncodesItsRow.jump _, EncodesItsRow.call _,
    EncodesItsRow.skipEqImm _ _, EncodesItsRow.skipNeImm _ _, EncodesItsRow.skipEqReg _ _,
    EncodesItsRow.loadImm _ _, EncodesItsRow.addImm _ _, EncodesItsRow.move _ _,
    EncodesItsRow.or _ _, EncodesItsRow.and _ _, EncodesItsRow.xor _ _, EncodesItsRow.add _ _,
    EncodesItsRow.sub _ _, EncodesItsRow.shiftRight _ _, EncodesItsRow.subn _ _,
    EncodesItsRow.shiftLeft _ _, EncodesItsRow.skipNeReg _ _, EncodesItsRow.loadAddr _,
    EncodesItsRow.jumpOffset _, EncodesItsRow.random _ _, EncodesItsRow.draw _ _ _,
    EncodesItsRow.skipKeyDown _, EncodesItsRow.skipKeyUp _, EncodesItsRow.readDelay _,
    EncodesItsRow.waitKey _, EncodesItsRow.setDelay _, EncodesItsRow.setSound _,
    EncodesItsRow.addAddr _, EncodesItsRow.spriteAddr _, EncodesItsRow.bcd _,
    EncodesItsRow.storeRegs _, EncodesItsRow.loadRegs _]

section Selects

variable {w : Word} {row : OpcodeRow}

theorem selects_iff : row.selects w = true ↔ w &&& row.mask = row.pattern := beq_iff_eq

/-- A field that the mask keeps is the pattern's in every word that agrees with the pattern under the mask. -/
theorem extractLsb'_of_and_eq {mask pattern : Word} {start len : Nat} (h : w &&& mask = pattern)
    (hm : mask.extractLsb' start len = BitVec.allOnes len) :
    w.extractLsb' start len = pattern.extractLsb' start len := by
  rw [← h, BitVec.extractLsb'_and, hm, BitVec.and_allOnes]

/-- A word that selects an instruction's row decodes to an instruction of that row, by format: the mask keeps
the fields that the decoder tests (R94, R96). -/
theorem exists_decodeWord_of_selects {i : Instr} (h : i.row.selects w = true) :
    ∃ j, decodeWord w = .ok j ∧ j.row = i.row := by
  rw [selects_iff] at h
  cases i <;> dsimp only [Instr.row] at h
  all_goals have hop : opField w = opField _ := extractLsb'_of_and_eq h rfl
  case clear | ret =>
    obtain rfl : w = _ := BitVec.and_allOnes.symm.trans h
    exact ⟨_, rfl, rfl⟩
  case jump | call | loadAddr | jumpOffset | skipEqImm | skipNeImm | loadImm | addImm | random | draw =>
    rw [decodeWord, hop]
    exact ⟨_, rfl, rfl⟩
  case skipEqReg | skipNeReg =>
    have hn : nField w = nField _ := extractLsb'_of_and_eq h rfl
    rw [decodeWord, hop, hn]
    exact ⟨_, rfl, rfl⟩
  case move | or | and | xor | add | sub | shiftRight | subn | shiftLeft =>
    have hn : nField w = nField _ := extractLsb'_of_and_eq h rfl
    rw [decodeWord, hop, decodeFamily8, hn]
    exact ⟨_, rfl, rfl⟩
  case skipKeyDown | skipKeyUp =>
    have hkk : kkField w = kkField _ := extractLsb'_of_and_eq h rfl
    rw [decodeWord, hop, decodeFamilyE, hkk]
    exact ⟨_, rfl, rfl⟩
  case readDelay | waitKey | setDelay | setSound | addAddr | spriteAddr | bcd | storeRegs | loadRegs =>
    have hkk : kkField w = kkField _ := extractLsb'_of_and_eq h rfl
    rw [decodeWord, hop, decodeFamilyF, hkk]
    exact ⟨_, rfl, rfl⟩

/-- A word selects a row of the table exactly when it decodes to an instruction of that row. -/
theorem selects_iff_exists_decodeWord (hrow : row ∈ opcodeTable) :
    row.selects w = true ↔ ∃ i, decodeWord w = .ok i ∧ i.row = row := by
  constructor
  · obtain ⟨i, rfl⟩ := exists_row_of_mem_opcodeTable row hrow
    exact exists_decodeWord_of_selects
  · rintro ⟨i, hi, rfl⟩
    rw [← encode_of_decodeWord hi]
    exact row_selects_encode i

end Selects

/-- Settles O4: the three clauses are read off `selects_iff_exists_decodeWord`, the last since a word decodes
to one instruction. -/
theorem decoderAgreesWithOpcodeMap : Obligations.DecoderAgreesWithOpcodeMap := by
  intro w
  refine ⟨fun i hi => ?_, fun e he row hrow => ?_, fun r₁ h₁ r₂ h₂ hs₁ hs₂ => ?_⟩
  · have hmem := row_mem_opcodeTable i
    exact ⟨hmem, (selects_iff_exists_decodeWord hmem).2 ⟨i, hi, rfl⟩⟩
  · rw [← Bool.not_eq_true, selects_iff_exists_decodeWord hrow]
    rintro ⟨i, hi, -⟩
    rw [he] at hi
    cases hi
  · obtain ⟨i, hi, rfl⟩ := (selects_iff_exists_decodeWord h₁).1 hs₁
    obtain ⟨j, hj, rfl⟩ := (selects_iff_exists_decodeWord h₂).1 hs₂
    rw [hi] at hj
    cases hj
    rfl

/-! ### The undefined words (R100) -/

section Undefined

variable {w : Word} {e : DecodeError}

theorem toNat_opField (w : Word) : (opField w).toNat = w.toNat / 4096 := by
  have := w.isLt
  rw [opField, BitVec.extractLsb'_toNat, Nat.shiftRight_eq_div_pow]
  omega

theorem toNat_nField (w : Word) : (nField w).toNat = w.toNat % 16 := BitVec.extractLsb'_toNat ..

theorem toNat_kkField (w : Word) : (kkField w).toNat = w.toNat % 256 := BitVec.extractLsb'_toNat ..

theorem nField_eq_iff {n : BitVec 4} : nField w = n ↔ w.toNat % 16 = n.toNat := by
  rw [← toNat_nField, BitVec.toNat_inj]

theorem kkField_eq_iff {kk : Byte} : kkField w = kk ↔ w.toNat % 256 = kk.toNat := by
  rw [← toNat_kkField, BitVec.toNat_inj]

/-- The words of R100's list: in families 0, 5, 9, 8, E, F those whose secondary field (R94) is none of the
table's. -/
def IsListedUndefined (w : Word) : Prop :=
  (w.toNat / 4096 = 0 ∧ w ≠ 0x00E0 ∧ w ≠ 0x00EE) ∨
  ((w.toNat / 4096 = 5 ∨ w.toNat / 4096 = 9) ∧ w.toNat % 16 ≠ 0) ∨
  (w.toNat / 4096 = 8 ∧ w.toNat % 16 ∈ [0x8, 0x9, 0xA, 0xB, 0xC, 0xD, 0xF]) ∨
  (w.toNat / 4096 = 14 ∧ w.toNat % 256 ∉ [0x9E, 0xA1]) ∨
  (w.toNat / 4096 = 15 ∧ w.toNat % 256 ∉ [0x07, 0x0A, 0x15, 0x18, 0x1E, 0x29, 0x33, 0x55, 0x65])

theorem decodeFamily8_eq_error_iff : decodeFamily8 w = .error e ↔
    w.toNat % 16 ∈ [0x8, 0x9, 0xA, 0xB, 0xC, 0xD, 0xF] ∧ .undefinedInstruction w = e := by
  rw [← toNat_nField, decodeFamily8]
  split
  case h_10 =>
    have hlt := toNat_lt_16 (nField w)
    have hlisted : (nField w).toNat ∈ [0x8, 0x9, 0xA, 0xB, 0xC, 0xD, 0xF] := by
      simp only [imp_false, List.mem_cons, List.not_mem_nil, or_false] at *
      omega
    simp [hlisted]
  all_goals next hn => simp [hn]

theorem decodeFamilyE_eq_error_iff : decodeFamilyE w = .error e ↔
    w.toNat % 256 ∉ [0x9E, 0xA1] ∧ .undefinedInstruction w = e := by
  unfold decodeFamilyE
  split_ifs <;> simp_all [kkField_eq_iff]

theorem decodeFamilyF_eq_error_iff : decodeFamilyF w = .error e ↔
    w.toNat % 256 ∉ [0x07, 0x0A, 0x15, 0x18, 0x1E, 0x29, 0x33, 0x55, 0x65] ∧
      .undefinedInstruction w = e := by
  unfold decodeFamilyF
  split_ifs <;> simp_all [kkField_eq_iff]

/-- The decoder rejects the words of R100's list alone, and names the word it rejects: by its branches, `h_1`
to `h_16` for the families 0 to F (R94), and `h_17`, which no word takes. -/
theorem decodeWord_eq_error_iff :
    decodeWord w = .error e ↔ IsListedUndefined w ∧ .undefinedInstruction w = e := by
  rw [IsListedUndefined, ← toNat_opField, decodeWord]
  split
  case h_1 hop => split_ifs <;> simp_all
  case h_6 hop | h_10 hop => split_ifs <;> simp_all [nField_eq_iff]
  case h_9 hop => simp [hop, decodeFamily8_eq_error_iff]
  case h_15 hop => simp [hop, decodeFamilyE_eq_error_iff]
  case h_16 hop => simp [hop, decodeFamilyF_eq_error_iff]
  case h_17 =>
    exfalso
    have hlt := toNat_lt_16 (opField w)
    simp only [imp_false] at *
    omega
  all_goals next hop => simp [hop]

end Undefined

/-- Settles O5: the two halves of `decodeWord_eq_error_iff`. -/
theorem undefinedWordsAreThoseListed : Obligations.UndefinedWordsAreThoseListed := fun _ =>
  ⟨⟨fun ⟨_, he⟩ => (decodeWord_eq_error_iff.1 he).1, fun h => ⟨_, decodeWord_eq_error_iff.2 ⟨h, rfl⟩⟩⟩,
    fun _ he => (decodeWord_eq_error_iff.1 he).2.symm⟩

end Sys2Proof
end

section
/-!
The phases of a step (40_engine.md R120 to R131): the halted engine, the tests before the fetch, the decoded
instruction and the undefined word.
-/

namespace Sys2Proof.Machine

/-- A state that a step leaves as it is stays for any number of steps. -/
theorem run_of_step_eq_self {M : Host.Core} {s : M.State} (h : M.step s = .next s) (k : Nat) :
    M.run k s = .next s := by
  induction k with
  | zero => rfl
  | succ k ih => rw [Host.Core.run, h]; exact ih

/-- Settles O15: the step of a halted engine leaves it as it is. -/
theorem haltedStateIsFinal : Obligations.HaltedStateIsFinal := fun _ k hs =>
  run_of_step_eq_self (M := Sys2Proof.core) (step_of_halted hs) k

section Fetch

variable {s : State}

/-- The first test: `PC` at `END_ADDR` (R121 (a)). -/
theorem preFetchHalt_of_end (he : s.pc = s.cfg.endAddr) : s.preFetchHalt = some .endReached :=
  if_pos he

/-- The second test: no word can be fetched at `PC` (R121 (b)). -/
theorem preFetchHalt_of_outOfBounds (he : s.pc ≠ s.cfg.endAddr) (hb : 0x0FFF ≤ s.pc.toNat) :
    s.preFetchHalt = some .fetchOutOfBounds := by
  rw [State.preFetchHalt, if_neg he, if_pos hb]

/-- The third test: `PC` is odd (R122). -/
theorem preFetchHalt_of_odd (he : s.pc ≠ s.cfg.endAddr) (hb : s.pc.toNat < 0x0FFF)
    (hodd : s.pc.toNat % 2 = 1) : s.preFetchHalt = some .pcMisaligned := by
  rw [State.preFetchHalt, if_neg he, if_neg hb.not_ge, if_pos hodd]

/-- The step that fetches a word runs it in the state after fetch and tick. -/
theorem step_of_fetches (h : s.Fetches) : step s = executeWord s.fetchWord s.fetched :=
  step_of_fetch h.running ((fetches_iff s).1 h).2

/-- A fetch takes `PC` past its word without wrapping around (R123). -/
theorem toNat_fetched_pc (h : s.Fetches) : s.fetched.pc.toNat = s.pc.toNat + 2 := by
  have hb := h.inBounds
  rw [State.fetched, tick_pc, advancePc_pc]
  bv_omega

/-- A counter at 0 stays there, any other loses 1 (R322). -/
theorem tickCounter_eq (t : Byte) : tickCounter t = if t = 0 then 0 else t - 1 := by
  unfold tickCounter
  by_cases h : t = 0
  · rw [if_neg (not_not.2 h), if_pos h, h]
  · rw [if_pos h, if_neg h]

/-- The state after fetch and tick, by its three changed fields (R123, R125). -/
theorem fetched_eq (s : State) : s.fetched = { s with
    pc := s.pc + 2
    dt := if s.dt = 0 then 0 else s.dt - 1
    st := if s.st = 0 then 0 else s.st - 1 } := by
  rw [← tickCounter_eq, ← tickCounter_eq]
  rfl

/-- A word that selects no row of the opcode map does not decode (R96, R126). -/
theorem exists_decodeWord_error {w : Word} (h : ∀ row ∈ opcodeTable, row.selects w = false) :
    ∃ e, decodeWord w = .error e := by
  cases hd : decodeWord w with
  | error e => exact ⟨e, rfl⟩
  | ok i =>
    have hmem := row_mem_opcodeTable i
    have hsel : i.row.selects w = true := (selects_iff_exists_decodeWord hmem).2 ⟨i, hd, rfl⟩
    rw [h _ hmem] at hsel
    cases hsel

end Fetch

/-- Settles O10: the first test that fails gives the cause, and the halt is the whole step. -/
theorem haltAndFetchChecksInOrder : Obligations.HaltAndFetchChecksInOrder := fun _ hs =>
  ⟨fun he => step_of_preFetchHalt hs (preFetchHalt_of_end he),
    fun he hb => step_of_preFetchHalt hs (preFetchHalt_of_outOfBounds he hb),
    fun he hb hodd => step_of_preFetchHalt hs (preFetchHalt_of_odd he hb hodd)⟩

/-- Settles O11: the two bytes are the word fetched, and `fetched_eq` is the state it runs in. -/
theorem stepExecutesTheDecodedInstruction : Obligations.StepExecutesTheDecodedInstruction := by
  intro s i hs hd
  have hd : decodeWord s.fetchWord = .ok i := hd
  rw [step_of_fetches hs, executeWord_of_ok _ hd, ← fetched_eq]
  cases exec i s.fetched <;> rfl

/-- Settles O12: such a word does not decode, so the step is the halt of the state after fetch and tick. -/
theorem undefinedWordHaltsAfterTheTick : Obligations.UndefinedWordHaltsAfterTheTick := by
  intro s hs hrows
  obtain ⟨e, he⟩ : ∃ e, decodeWord s.fetchWord = .error e := exists_decodeWord_error hrows
  exact ⟨s.fetched.halt .undefinedInstruction,
    (step_of_fetches hs).trans (executeWord_of_error _ he), toNat_fetched_pc hs,
    toNat_tickCounter s.dt, toNat_tickCounter s.st, rfl⟩

end Sys2Proof.Machine
end

section
/-!
What depends on the inputs of a step (40_engine.md R130): an instruction reads the schedule only as `rnd` or
`keys`, and only `random` and the three key instructions do.
-/

namespace Sys2Proof.Machine

/-- The state with another input schedule (log 1). -/
def State.withInputs (s : State) (l : List StepInput) : State := { s with inputs := l }

/-- A skip keeps the schedule. -/
theorem skipIf_withInputs (s : State) (l : List StepInput) (c : Bool) :
    (s.withInputs l).skipIf c = (s.skipIf c).withInputs l := by
  cases c <;> rfl

/-- A guarded operation under another schedule, where its guard and its other branch do not read it. -/
theorem raise_or_withInputs {s t u : State} {g : Prop} [Decidable g] {c : Cause} (l : List StepInput)
    (h : (if g then raise c s else .next u) = .next t) :
    (if g then raise c (s.withInputs l) else .next (u.withInputs l)) = .next (t.withInputs l) := by
  split at h <;> cases h
  · next hg => exact if_pos hg
  · next hg => exact if_neg hg

/-- An instruction does the same under another schedule, if `random` finds the same `rnd` in it and the three
key instructions the same `keys` (R130). -/
theorem exec_withInputs {i : Instr} {s t : State} {l : List StepInput} (h : exec i s = .next t)
    (hrnd : ∀ x kk, i = .random x kk → (s.withInputs l).rnd = s.rnd)
    (hkeys : ∀ x, i = .skipKeyDown x ∨ i = .skipKeyUp x ∨ i = .waitKey x →
      (s.withInputs l).keys = s.keys) :
    exec i (s.withInputs l) = .next (t.withInputs l) := by
  cases i <;> simp only [exec] at h ⊢
  case random x kk =>
    cases h
    rw [execRandom, hrnd x kk rfl]
    rfl
  case skipKeyDown x =>
    rw [execSkipKeyDown, State.keyDown, hkeys x (.inl rfl), skipIf_withInputs]
    exact raise_or_withInputs l h
  case skipKeyUp x =>
    rw [execSkipKeyUp, State.keyDown, hkeys x (.inr (.inl rfl)), skipIf_withInputs]
    exact raise_or_withInputs l h
  case waitKey x =>
    cases h
    rw [execWaitKey, hkeys x (.inr (.inr rfl))]
    cases lowestKey s.keys <;> rfl
  case ret =>
    unfold execReturn raise at h ⊢
    split at h <;> cases h
    · next hsp => exact dif_pos hsp
    · next hsp => exact dif_neg hsp
  case call =>
    unfold execCall raise at h ⊢
    split at h <;> cases h
    · next hsp => exact dif_pos hsp
    · next hsp => exact dif_neg hsp
  case draw | spriteAddr | bcd | storeRegs | loadRegs => exact raise_or_withInputs l h
  case skipEqImm | skipNeImm | skipEqReg | skipNeReg =>
    cases h
    exact congrArg _ (skipIf_withInputs ..)
  all_goals
    cases h
    rfl

/-- Settles O21: in each clause one input is read by no such instruction, and the other is the same. -/
theorem inputsReachOnlyTheirInstructions : Obligations.InputsReachOnlyTheirInstructions := by
  intro i s t a b h
  have hexec := exec_withInputs (l := b :: s.inputs) h
  refine ⟨fun hi hk => ?_, fun hi hr => ?_⟩
  · exact hexec (fun x kk e => absurd e (hi x kk)) fun _ _ => hk.symm
  · refine hexec (fun _ _ _ => hr.symm) fun x e => ?_
    obtain ⟨hdown, hup, hwait⟩ := hi x
    obtain e | e | e := e
    · exact absurd e hdown
    · exact absurd e hup
    · exact absurd e hwait

end Sys2Proof.Machine
end

section
/-!
The display instructions (41_display.md): a sprite is plotted pixel by pixel, and no pixel of it twice (R155),
so `draw` is the XOR of R152.
-/

namespace Sys2Proof.Machine

/-- Settles O26: the word decodes to `clear`, and every pixel of the blank display is 0. -/
theorem clearZeroesTheDisplay : Obligations.ClearZeroesTheDisplay :=
  ⟨decodeWord_encode .clear, fun s => ⟨_, rfl, get_blank, frame_writeDisp s _⟩⟩

/-! ### The pixels of a sprite -/

/-- The screen columns of the set bits of a sprite row, left to right (R153, R154). -/
def rowColumns (row : Byte) (x0 : Nat) : List (Fin 64) :=
  ((List.range 8).filter fun k => row.getLsbD (7 - k)).map fun k => Fin.ofNat 64 (x0 + k)

/-- The pixels of the set bits of sprite row `r`: none where its screen row is dropped (R155). -/
def State.rowPixels (s : State) (x y : RegIx) (r : Nat) : List (Fin 32 × Fin 64) :=
  (screenRow s.cfg.vwrap ((s.readV y).toNat % 32 + r)).toList ×ˢ
    rowColumns (s.readByte (s.dataAddr r)) ((s.readV x).toNat % 64)

/-- The pixels of the set bits of the sprite, in the order in which they are plotted (R152). -/
def State.spritePixels (s : State) (x y : RegIx) (n : Nat) : List (Fin 32 × Fin 64) :=
  (List.range n).flatMap (s.rowPixels x y)

theorem mem_rowColumns {row : Byte} {x0 : Nat} {xx : Fin 64} :
    xx ∈ rowColumns row x0 ↔ ∃ c < 8, row.getLsbD (7 - c) = true ∧ xx.val = (x0 + c) % 64 := by
  simp only [rowColumns, List.mem_map, List.mem_filter, List.mem_range, and_assoc, Fin.ext_iff,
    Fin.val_ofNat, eq_comm (b := xx.val)]

/-- Eight neighbouring columns are distinct, wrapped or not (R153). -/
theorem nodup_rowColumns (row : Byte) (x0 : Nat) : (rowColumns row x0).Nodup := by
  refine (List.nodup_range.filter _).map_on fun j hj k hk h => ?_
  have hj8 : j < 8 := List.mem_range.1 (List.mem_of_mem_filter hj)
  have hk8 : k < 8 := List.mem_range.1 (List.mem_of_mem_filter hk)
  have hmod : (x0 + j) % 64 = (x0 + k) % 64 := congrArg Fin.val h
  omega

section Sprite

variable {s : State} {x y : RegIx} {n : BitVec 4} {r : Nat} {yy : Fin 32} {xx : Fin 64}

theorem mem_rowPixels (hr : r < 16) :
    (yy, xx) ∈ s.rowPixels x y r ↔ ∃ c < 8, s.SpriteBitAt x y r c yy xx := by
  have hlt : (s.readV y).toNat % 32 + r < 64 := by omega
  rw [State.rowPixels, List.mem_product, Option.mem_toList, screenRow_eq_some_iff _ _ _ hlt,
    mem_rowColumns]
  constructor
  · rintro ⟨hrow, c, hc, hbit, hcol⟩
    exact ⟨c, hc, hbit, hcol, hrow⟩
  · rintro ⟨c, hc, hbit, hcol, hrow⟩
    exact ⟨hrow, c, hc, hbit, hcol⟩

theorem nodup_rowPixels : (s.rowPixels x y r).Nodup :=
  (Option.toList_nodup _).product (nodup_rowColumns _ _)

/-- Two rows of a sprite are aimed at different screen rows, since it has at most 15 of them (R155). -/
theorem disjoint_rowPixels {r' : Nat} (hr : r < 16) (hr' : r' < 16) (hne : r ≠ r') :
    List.Disjoint (s.rowPixels x y r) (s.rowPixels x y r') := by
  rintro ⟨yy, xx⟩ h h'
  obtain ⟨_, -, -, -, hrow⟩ := (mem_rowPixels hr).1 h
  obtain ⟨_, -, -, -, hrow'⟩ := (mem_rowPixels hr').1 h'
  omega

/-- The pixels plotted are those that the sprite hits. -/
theorem mem_spritePixels :
    (yy, xx) ∈ s.spritePixels x y n.toNat ↔ s.SpriteHits x y n yy xx := by
  simp only [State.spritePixels, List.mem_flatMap, List.mem_range]
  exact exists_congr fun r => and_congr_right fun hr => mem_rowPixels (hr.trans n.isLt)

/-- "Each pixel is touched at most once" (R155). -/
theorem nodup_spritePixels : (s.spritePixels x y n.toNat).Nodup := by
  have hlt {r} (hr : r ∈ List.range n.toNat) : r < 16 := (List.mem_range.1 hr).trans n.isLt
  exact List.nodup_flatMap.2 ⟨fun r _ => nodup_rowPixels,
    List.nodup_range.imp_of_mem fun hr hr' => disjoint_rowPixels (hlt hr) (hlt hr')⟩

/-! ### The sprite on the display -/

/-- A row is plotted by its columns. -/
theorem plotRow_eq_plotAll (c : Canvas) (row : Byte) (yy : Fin 32) (x0 : Nat) :
    c.plotRow row yy x0 = c.plotAll ((rowColumns row x0).map (yy, ·)) := by
  rw [Canvas.plotAll, rowColumns, List.foldl_map, List.foldl_map, List.foldl_filter]
  rfl

theorem plotSpriteRow_eq_plotAll (c : Canvas) :
    s.plotSpriteRow ((s.readV x).toNat % 64) ((s.readV y).toNat % 32) c r =
      c.plotAll (s.rowPixels x y r) := by
  unfold State.plotSpriteRow State.rowPixels
  cases screenRow s.cfg.vwrap ((s.readV y).toNat % 32 + r) with
  | none => rfl
  | some yy =>
    rw [Option.toList_some, List.product_cons, List.nil_product, List.append_nil]
    exact plotRow_eq_plotAll ..

/-- A sprite is drawn by plotting its pixels in order (R152). -/
theorem sprite_eq_plotAll (n : Nat) :
    s.sprite x y n = (⟨s.disp, false⟩ : Canvas).plotAll (s.spritePixels x y n) := by
  rw [Canvas.plotAll, State.spritePixels, List.foldl_flatMap]
  exact List.foldl_ext _ _ _ fun c _ _ => plotSpriteRow_eq_plotAll c

/-- A sprite collides exactly when it hits a pixel that was set (R156). -/
theorem collision_sprite_iff :
    (s.sprite x y n.toNat).collision = true ↔
      ∃ yy xx, s.SpriteHits x y n yy xx ∧ s.disp.get yy xx = true := by
  rw [sprite_eq_plotAll, collision_plotAll _ _ nodup_spritePixels]
  simp [mem_spritePixels]

/-! ### The state after `draw` -/

/-- The state after a draw of `draw Vx, Vy, n` that does not halt (R152, R156). -/
def State.drawn (s : State) (x y : RegIx) (n : BitVec 4) : State :=
  (s.writeDisp (s.sprite x y n.toNat).disp).writeV 0xF (flagByte (s.sprite x y n.toNat).collision)

theorem exec_draw_of_inRange (h : n.toNat = 0 ∨ s.i.toNat + n.toNat - 1 ≤ 0xFFF) :
    exec (.draw x y n) s = .next (s.drawn x y n) :=
  if_neg (by rw [outOfRange_iff, State.dataAddr]; omega)

theorem exec_draw_of_outOfRange (h0 : 0 < n.toNat) (h : 0xFFF < s.i.toNat + n.toNat - 1) :
    exec (.draw x y n) s = .next (s.halt .addressOutOfRange) :=
  if_pos (by rw [outOfRange_iff, State.dataAddr]; omega)

/-- A draw changes the display and `VF` alone (R152). -/
theorem frame_drawn (s : State) (x y : RegIx) (n : BitVec 4) :
    Frame { regs := [0xF], disp := true } s (s.drawn x y n) :=
  { frame_writeV (s.writeDisp _) 0xF _ with disp := nofun }

theorem drawn_disp : (s.drawn x y n).disp = (s.sprite x y n.toNat).disp := rfl

theorem readV_drawn_flag :
    (s.drawn x y n).readV 0xF = flagByte (s.sprite x y n.toNat).collision := by
  rw [State.drawn, readV_writeV, if_pos rfl]

/-- A pixel that the sprite hits is inverted (R152, R156). -/
theorem get_drawn_of_spriteHits (h : s.SpriteHits x y n yy xx) :
    (s.drawn x y n).disp.get yy xx = !s.disp.get yy xx := by
  rw [drawn_disp, sprite_eq_plotAll, get_plotAll _ _ nodup_spritePixels,
    if_pos (mem_spritePixels.2 h)]

/-- A pixel that the sprite does not hit is kept (R152). -/
theorem get_drawn_of_not_spriteHits (h : ¬ s.SpriteHits x y n yy xx) :
    (s.drawn x y n).disp.get yy xx = s.disp.get yy xx := by
  rw [drawn_disp, sprite_eq_plotAll, get_plotAll _ _ nodup_spritePixels,
    if_neg (mt mem_spritePixels.1 h)]

theorem readV_drawn_flag_eq_one_iff :
    (s.drawn x y n).readV 0xF = 1 ↔ ∃ yy xx, s.SpriteHits x y n yy xx ∧ s.disp.get yy xx = true := by
  rw [← collision_sprite_iff, readV_drawn_flag]
  cases (s.sprite x y n.toNat).collision <;> decide

theorem readV_drawn_flag_eq_zero_iff :
    (s.drawn x y n).readV 0xF = 0 ↔ ¬ ∃ yy xx, s.SpriteHits x y n yy xx ∧ s.disp.get yy xx = true := by
  rw [← collision_sprite_iff, readV_drawn_flag]
  cases (s.sprite x y n.toNat).collision <;> decide

/-- The pixels a sprite hits depend on `Vx`, `Vy`, `I`, `MEM` and the configuration alone (R152 to R155). -/
theorem Frame.spriteHits_iff {m : May} {t : State} (h : Frame m s t) (hx : x ∉ m.regs) (hy : y ∉ m.regs)
    (hi : m.i = false) (hm : m.mem = []) :
    t.SpriteHits x y n yy xx ↔ s.SpriteHits x y n yy xx := by
  have hmem (a) : t.readByte a = s.readByte a := h.mem a (hm ▸ List.not_mem_nil)
  simp only [State.SpriteHits, State.SpriteBitAt, State.dataAddr, h.regs x hx, h.regs y hy, h.i hi, hmem,
    h.cfg]

/-- A sprite of zero bytes hits no pixel (R159 (d)). -/
theorem not_spriteHits_of_zero (h : ∀ r, r < n.toNat → s.readByte (s.dataAddr r) = 0) :
    ¬ s.SpriteHits x y n yy xx := by
  rintro ⟨r, hr, c, -, hbit, -⟩
  simp [h r hr] at hbit

/-- Drawing twice from the same position restores every pixel (R159 (a)). -/
theorem get_drawn_drawn (h : (s.drawn x y n).SpriteHits x y n yy xx ↔ s.SpriteHits x y n yy xx) :
    ((s.drawn x y n).drawn x y n).disp.get yy xx = s.disp.get yy xx := by
  by_cases hit : s.SpriteHits x y n yy xx
  · rw [get_drawn_of_spriteHits (h.2 hit), get_drawn_of_spriteHits hit, Bool.not_not]
  · rw [get_drawn_of_not_spriteHits (mt h.1 hit), get_drawn_of_not_spriteHits hit]

/-- On a blank display exactly the pixels hit are set afterwards (R159 (b)). -/
theorem get_drawn_of_blank (h : s.disp = .blank) :
    (s.drawn x y n).disp.get yy xx = true ↔ s.SpriteHits x y n yy xx := by
  by_cases hit : s.SpriteHits x y n yy xx
  · simp only [get_drawn_of_spriteHits hit, h, get_blank, hit, Bool.not_false]
  · simp only [get_drawn_of_not_spriteHits hit, h, get_blank, hit, Bool.false_eq_true]

end Sprite

/-- Settles O27: a sprite that fits is drawn, one that does not is a halt. -/
theorem drawXorsTheSpriteAndDetectsCollision : Obligations.DrawXorsTheSpriteAndDetectsCollision :=
  fun x y n s => ⟨decodeWord_encode (.draw x y n), fun h => ⟨s.drawn x y n, exec_draw_of_inRange h,
    fun _ _ => ⟨get_drawn_of_spriteHits, get_drawn_of_not_spriteHits⟩,
    readV_drawn_flag_eq_one_iff.2, readV_drawn_flag_eq_zero_iff.2, frame_drawn s x y n⟩,
    exec_draw_of_outOfRange⟩

/-- Settles O28: the first instruction of each pair writes nothing that places the sprite, so the second one
hits the same pixels. -/
theorem spriteXorProperties : Obligations.SpriteXorProperties := by
  intro x y n s h
  refine ⟨fun hx hy => ?_, ?_, fun hzero => ?_⟩
  · have hits {yy xx} : (s.drawn x y n).SpriteHits x y n yy xx ↔ s.SpriteHits x y n yy xx :=
      (frame_drawn s x y n).spriteHits_iff (by simpa using hx) (by simpa using hy) rfl rfl
    refine ⟨s.drawn x y n, (s.drawn x y n).drawn x y n, exec_draw_of_inRange h, exec_draw_of_inRange h,
      fun _ _ => get_drawn_drawn hits, ?_, readV_drawn_flag_eq_one_iff⟩
    rw [readV_drawn_flag_eq_one_iff]
    refine exists_congr fun yy => exists_congr fun xx => (and_congr_left' hits).trans ?_
    exact and_congr_right fun hit => by rw [get_drawn_of_spriteHits hit, Bool.not_eq_true']
  · have hits {yy xx} : (s.writeDisp .blank).SpriteHits x y n yy xx ↔ s.SpriteHits x y n yy xx :=
      (frame_writeDisp s .blank).spriteHits_iff (by simp) (by simp) rfl rfl
    refine ⟨s.writeDisp .blank, (s.writeDisp .blank).drawn x y n, rfl, exec_draw_of_inRange h, ?_,
      fun yy xx => (get_drawn_of_blank rfl).trans hits⟩
    rw [readV_drawn_flag_eq_zero_iff]
    simp
  · have hmiss {yy xx} : ¬ s.SpriteHits x y n yy xx := not_spriteHits_of_zero hzero
    refine ⟨s.drawn x y n, exec_draw_of_inRange h, ?_, fun _ _ => get_drawn_of_not_spriteHits hmiss⟩
    exact readV_drawn_flag_eq_zero_iff.2 fun ⟨_, _, hit, _⟩ => hmiss hit

end Sys2Proof.Machine
end

section
/-!
The control-transfer instructions (42_control_flow.md): the stack as a caller sees it, and each condition of a
skip as the statements read it, a comparison of register values.
-/

namespace Sys2Proof.Machine

/-! ### Jumps (R174, R184) -/

/-- The target of `jump-offset` does not wrap: it is at most 0xFFF + 0xFF (R23, R184). -/
theorem toNat_zextAddr_add_zextByte (nnn : Addr) (b : Byte) :
    (zextAddr nnn + zextByte b).toNat = nnn.toNat + b.toNat := by
  have hn := nnn.isLt
  have hb := b.isLt
  rw [BitVec.toNat_add_of_lt (by rw [toNat_zextAddr, toNat_zextByte]; omega), toNat_zextAddr,
    toNat_zextByte]

/-- Settles O29: both jumps set `PC` and nothing else; a 12-bit address plus a byte fits in 16 bits. -/
theorem jumpsLoadThePc : Obligations.JumpsLoadThePc := fun nnn s =>
  ⟨⟨decodeWord_encode (.jump nnn), _, rfl, toNat_zextAddr nnn, frame_setPc s _⟩,
    decodeWord_encode (.jumpOffset nnn), _, rfl, toNat_zextAddr_add_zextByte nnn _, frame_setPc s _⟩

/-! ### Call and return (R172, R176) -/

section Stack

variable {s : State} {nnn : Addr}

theorem exec_call_of_room (h : s.sp.val < 16) :
    exec (.call nnn) s = .next ((s.push s.pc h).setPc (zextAddr nnn)) := dif_pos h

theorem exec_call_of_full (h : s.sp.val = 16) : exec (.call nnn) s = .next (s.halt .stackOverflow) :=
  dif_neg (by omega)

theorem exec_ret_of_pos (h : 0 < s.sp.val) : exec .ret s = .next (s.pop.setPc (s.top h)) := dif_pos h

theorem exec_ret_of_empty (h : s.sp.val = 0) : exec .ret s = .next (s.halt .stackUnderflow) :=
  dif_neg (by omega)

/-- The top of a stack of `k + 1` entries is entry `k` (R24). -/
theorem top_eq_getElem {k : Fin 16} (hk : s.sp.val = k.val + 1) (h : 0 < s.sp.val) :
    s.top h = s.stack[k] := by
  simp [State.top, hk]

end Stack

/-- Settles O30: a call with room pushes `PC`, one with 16 entries in use halts. -/
theorem callPushesAndJumps : Obligations.CallPushesAndJumps := fun nnn s =>
  ⟨decodeWord_encode (.call nnn), fun h => ⟨_, exec_call_of_room h, toNat_zextAddr nnn, push_sp s s.pc h,
    push_stack_get s s.pc h, frame_push_setPc s _ _ h⟩, exec_call_of_full⟩

/-- Settles O31: a return takes the top entry and leaves `STACK` as it is, or halts on an empty stack. -/
theorem returnPopsIntoThePc : Obligations.ReturnPopsIntoThePc := by
  refine ⟨decodeWord_encode .ret, fun s => ⟨fun k hk => ?_, exec_ret_of_empty⟩⟩
  have hpos : 0 < s.sp.val := by omega
  have hsp : s.pop.sp.val = k.val := by rw [pop_sp, hk, Nat.add_sub_cancel]
  exact ⟨_, exec_ret_of_pos hpos, top_eq_getElem hk hpos, hsp, fun _ => rfl, frame_pop_setPc s _⟩

/-- Settles O32: the return's fetch keeps the stack, so its top is what the call pushed, and the push wrote
no entry below the old depth. -/
theorem returnUndoesCall : Obligations.ReturnUndoesCall := by
  intro nnn s h
  have hpos : 0 < ((s.push s.pc h).setPc (zextAddr nnn)).fetched.sp.val := Nat.succ_pos _
  refine ⟨_, _, exec_call_of_room h, exec_ret_of_pos hpos, top_push s s.pc h hpos, rfl, fun k hk => ?_⟩
  exact (push_stack_get s s.pc h k).trans (if_neg hk.ne)

/-! ### Skips (R178 to R183) -/

/-- A skip on equality advances `PC` exactly when the two values are the same number. -/
theorem skipIf_beq_pc (s : State) (a b : Byte) :
    (s.skipIf (a == b)).pc = if a.toNat = b.toNat then s.pc + 2 else s.pc := by
  simp [skipIf_eq, BitVec.toNat_inj]

/-- A skip on inequality advances `PC` exactly when the two values are different numbers. -/
theorem skipIf_bne_pc (s : State) (a b : Byte) :
    (s.skipIf (a != b)).pc = if a.toNat = b.toNat then s.pc else s.pc + 2 := by
  simp [skipIf_eq, BitVec.toNat_inj]

/-- A word of family 5 or 9 whose low nibble is not 0 is one of R100's list. -/
theorem decodeWord_wordXYN_of_nibble {op n : BitVec 4} (x y : RegIx) (hop : op.toNat = 5 ∨ op.toNat = 9)
    (hn : n ≠ 0) : decodeWord (wordXYN op x y n) = .error (.undefinedInstruction (wordXYN op x y n)) := by
  refine decodeWord_eq_error_iff.2 ⟨.inr (.inl ⟨?_, ?_⟩), rfl⟩
  · rwa [← toNat_opField, opField_wordXYN]
  · rw [← toNat_nField, nField_wordXYN]
    exact fun h0 => hn (BitVec.eq_of_toNat_eq h0)

/-- Settles O33: each skip is a `skipIf` of its comparison; the other words of families 5 and 9 are rejected
for their low nibble. -/
theorem skipsAdvanceOnTheirCondition : Obligations.SkipsAdvanceOnTheirCondition := by
  intro x y kk s
  refine ⟨?eqImm, ?neImm, ?eqReg, ?neReg, fun n hn => ?undefined⟩
  case eqImm => exact ⟨decodeWord_encode (.skipEqImm x kk), _, rfl, frame_skipIf s _, skipIf_beq_pc s _ _⟩
  case neImm => exact ⟨decodeWord_encode (.skipNeImm x kk), _, rfl, frame_skipIf s _, skipIf_bne_pc s _ _⟩
  case eqReg => exact ⟨decodeWord_encode (.skipEqReg x y), _, rfl, frame_skipIf s _, skipIf_beq_pc s _ _⟩
  case neReg => exact ⟨decodeWord_encode (.skipNeReg x y), _, rfl, frame_skipIf s _, skipIf_bne_pc s _ _⟩
  case undefined =>
    have rejected {op : BitVec 4} (hop : op.toNat = 5 ∨ op.toNat = 9) (i : Instr) :
        decodeWord (wordXYN op x y n) ≠ .ok i := by
      rw [decodeWord_wordXYN_of_nibble x y hop hn]
      exact nofun
    exact ⟨rejected (.inl rfl), rejected (.inr rfl)⟩

end Sys2Proof.Machine
end

section
/-!
Loads, ALU and random (43_load_alu.md): the exact result and the flag of each ALU operation as numbers, and what
the destination and `VF` hold after a write, from the old operands (R203, R228).
-/

namespace Sys2Proof.Machine

/-! ### The registers written (R203) -/

section Writes

variable (s : State) (x : RegIx)

theorem readV_writeV_dest (b : Byte) : (s.writeV x b).readV x = b := by
  rw [readV_writeV, if_pos rfl]

/-- The destination holds the result, `x = F` included (R203). -/
theorem readV_writeFlagged_dest (o : AluOut) : (s.writeFlagged x o).readV x = o.result := by
  rw [readV_writeFlagged, if_pos rfl]

theorem readV_writeFlagged_flag {x : RegIx} (hx : x ≠ 0xF) (o : AluOut) :
    (s.writeFlagged x o).readV 0xF = flagByte o.flag := by
  rw [readV_writeFlagged, if_neg hx.symm, if_pos rfl]

end Writes

/-! ### Results and flags of the ALU (R200, R201) -/

section Alu

variable (a b : Byte)

/-- A flag is the number 1 or 0 (R21). -/
theorem toNat_flagByte (f : Bool) : (flagByte f).toNat = f.toNat := by
  cases f <;> rfl

theorem flagByte_decide (p : Prop) [Decidable p] : flagByte (decide p) = if p then 1 else 0 := by
  simp only [flagByte, decide_eq_true_eq]

theorem toNat_aluAdd_result : (aluAdd a b).result.toNat = (a.toNat + b.toNat) % 256 :=
  (BitVec.toNat_ofNat ..).trans (Nat.mod_mod ..)

/-- 256 is added before the subtraction, so the `Nat` difference is not cut at 0. -/
theorem toNat_aluSub_result : ((aluSub a b).result.toNat : Int) = (a.toNat - b.toNat : Int) % 256 := by
  have hb := b.isLt
  have hresult : (aluSub a b).result.toNat = (a.toNat + 256 - b.toNat) % 256 :=
    (BitVec.toNat_ofNat ..).trans (Nat.mod_mod ..)
  omega

theorem toNat_aluShiftRight_result : (aluShiftRight a).result.toNat = a.toNat / 2 :=
  (BitVec.toNat_ofNat ..).trans (Nat.mod_eq_of_lt ((Nat.div_le_self ..).trans_lt a.isLt))

theorem toNat_aluShiftLeft_result : (aluShiftLeft a).result.toNat = a.toNat * 2 % 256 := by
  rw [Nat.mul_comm]
  exact (BitVec.toNat_ofNat ..).trans (Nat.mod_mod ..)

/-- A flag that is bit `k` of a byte, as a number. -/
theorem toNat_flagByte_getLsbD (k : Nat) : (flagByte (a.getLsbD k)).toNat = a.toNat / 2 ^ k % 2 :=
  (toNat_flagByte _).trans (Nat.toNat_testBit ..)

/-- The bit shifted out to the right is bit 0 (R220). -/
theorem toNat_aluShiftRight_flag : (flagByte (aluShiftRight a).flag).toNat = a.toNat % 2 :=
  (toNat_flagByte_getLsbD a 0).trans (by rw [Nat.pow_zero, Nat.div_one])

/-- The bit shifted out to the left is bit 7, the topmost (R224). -/
theorem toNat_aluShiftLeft_flag : (flagByte (aluShiftLeft a).flag).toNat = a.toNat / 128 :=
  (toNat_flagByte_getLsbD a 7).trans (Nat.mod_eq_of_lt (Nat.div_lt_of_lt_mul a.isLt))

end Alu

/-- The source of a shift is what the mode in force says (R220, R224). -/
theorem shiftSource_eq {s : State} {x y : RegIx} {src : Byte}
    (hfixed : s.cfg.shiftQuirk = .fixed → src = s.readV x)
    (hclassic : s.cfg.shiftQuirk = .classic → src = s.readV y) : s.shiftSource x y = src := by
  unfold State.shiftSource
  cases hq : s.cfg.shiftQuirk with
  | fixed => exact (hfixed hq).symm
  | classic => exact (hclassic hq).symm

/-! ### The statements -/

/-- Settles O34: all three are one register write. -/
theorem loadAddImmMoveResults : Obligations.LoadAddImmMoveResults := by
  intro x y kk s
  refine ⟨?loadImm, ?addImm, ?move⟩
  case loadImm =>
    exact ⟨decodeWord_encode (.loadImm x kk), _, rfl, readV_writeV_dest s x _, frame_writeV s x _⟩
  case addImm =>
    refine ⟨decodeWord_encode (.addImm x kk), _, rfl, ?_, frame_writeV s x _⟩
    rw [readV_writeV_dest, toNat_aluAdd_result]
  case move =>
    exact ⟨decodeWord_encode (.move x y), _, rfl, readV_writeV_dest s x _, frame_writeV s x _⟩

/-- Settles O35: each is one register write, of a word operation that acts bit by bit. -/
theorem logicResultsBitByBit : Obligations.LogicResultsBitByBit := by
  intro x y s
  refine ⟨⟨decodeWord_encode (.or x y), _, rfl, frame_writeV s x _, fun b => ?or⟩,
    ⟨decodeWord_encode (.and x y), _, rfl, frame_writeV s x _, fun b => ?and⟩,
    ⟨decodeWord_encode (.xor x y), _, rfl, frame_writeV s x _, fun b => ?xor⟩⟩
  case or => rw [readV_writeV_dest, BitVec.getLsbD_or]
  case and => rw [readV_writeV_dest, BitVec.getLsbD_and]
  case xor => rw [readV_writeV_dest, BitVec.getLsbD_xor]

/-- Settles O36: one flagged write of the sum and its carry. -/
theorem addResultAndCarry : Obligations.AddResultAndCarry := by
  intro x y s
  refine ⟨decodeWord_encode (.add x y), _, rfl, frame_writeFlagged s x _, ?result, fun hx => ?flag⟩
  case result => rw [readV_writeFlagged_dest, toNat_aluAdd_result]
  case flag => exact (readV_writeFlagged_flag s hx _).trans (flagByte_decide _)

/-- A flagged write of `a - b` gives the difference modulo 256 and the no-borrow flag (R218, R222). -/
theorem writeFlagged_aluSub (s : State) (x : RegIx) (a b : Byte) :
    (((s.writeFlagged x (aluSub a b)).readV x).toNat : Int) = (a.toNat - b.toNat : Int) % 256 ∧
    (x ≠ 0xF → (s.writeFlagged x (aluSub a b)).readV 0xF = if b.toNat ≤ a.toNat then 1 else 0) := by
  refine ⟨?_, fun hx => ?_⟩
  · rw [readV_writeFlagged_dest, toNat_aluSub_result]
  · exact (readV_writeFlagged_flag s hx _).trans (flagByte_decide _)

/-- Settles O37: `subn` is `sub` with the operands exchanged. -/
theorem subtractResultsAndNoBorrow : Obligations.SubtractResultsAndNoBorrow := fun x y s =>
  ⟨⟨decodeWord_encode (.sub x y), _, rfl, frame_writeFlagged s x _, writeFlagged_aluSub s x _ _⟩,
    decodeWord_encode (.subn x y), _, rfl, frame_writeFlagged s x _, writeFlagged_aluSub s x _ _⟩

/-- Settles O38: with the source of the mode in force, both shifts are a flagged write. -/
theorem shiftResultsInBothModes : Obligations.ShiftResultsInBothModes := by
  intro x y s src hfixed hclassic
  obtain rfl : s.shiftSource x y = src := shiftSource_eq hfixed hclassic
  refine ⟨?right, ?left⟩
  case right =>
    refine ⟨decodeWord_encode (.shiftRight x y), _, rfl, frame_writeFlagged s x _, ?_, fun hx => ?_⟩
    · rw [readV_writeFlagged_dest, toNat_aluShiftRight_result]
    · rw [readV_writeFlagged_flag s hx, toNat_aluShiftRight_flag]
  case left =>
    refine ⟨decodeWord_encode (.shiftLeft x y), _, rfl, frame_writeFlagged s x _, ?_, fun hx => ?_⟩
    · rw [readV_writeFlagged_dest, toNat_aluShiftLeft_result]
    · rw [readV_writeFlagged_flag s hx, toNat_aluShiftLeft_flag]

/-- Settles O39: one register write of the masked byte; the head of the schedule gives that byte. -/
theorem randomIsTheInputMasked : Obligations.RandomIsTheInputMasked := by
  intro x kk s
  refine ⟨decodeWord_encode (.random x kk), ⟨_, rfl, frame_writeV s x _, fun b => ?_⟩, fun _ => rfl⟩
  rw [readV_writeV_dest, BitVec.getLsbD_and]

end Sys2Proof.Machine
end

section
/-!
The address register and the memory instructions (44_index_memory.md): where each runs and where it halts (R72),
and the bytes and registers that the runs between `I` and `I + x` hold afterwards.
-/

namespace Sys2Proof.Machine

/-! ### The outcome of each instruction, by its guard -/

section Outcomes

variable {s : State} {x : RegIx}

/-- A run of `k + 1` bytes at `I` leaves the address space exactly when its last byte does (R72). -/
theorem outOfRange_dataAddr_iff (s : State) (k : Nat) :
    outOfRange (s.dataAddr 0) (k + 1) = true ↔ 0xFFF < s.i.toNat + k := by
  rw [outOfRange_iff, State.dataAddr]
  omega

theorem exec_spriteAddr_of_digit (h : (s.readV x).toNat ≤ 0x0F) :
    exec (.spriteAddr x) s = .next (s.writeI (s.glyphAddr (s.readV x))) := if_neg (Nat.not_lt.2 h)

theorem exec_spriteAddr_of_not_digit (h : 0x0F < (s.readV x).toNat) :
    exec (.spriteAddr x) s = .next (s.halt .fontIndexOutOfRange) := if_pos h

theorem exec_bcd_of_inRange (h : s.i.toNat + 2 ≤ 0xFFF) :
    exec (.bcd x) s = .next (s.writeBytes s.i.toNat (bcdDigits (s.readV x))) :=
  if_neg (mt (outOfRange_dataAddr_iff s 2).1 (Nat.not_lt.2 h))

theorem exec_bcd_of_outOfRange (h : 0xFFF < s.i.toNat + 2) :
    exec (.bcd x) s = .next (s.halt .addressOutOfRange) := if_pos ((outOfRange_dataAddr_iff s 2).2 h)

theorem exec_storeRegs_of_outOfRange (h : 0xFFF < s.i.toNat + x.toNat) :
    exec (.storeRegs x) s = .next (s.halt .addressOutOfRange) :=
  if_pos ((outOfRange_dataAddr_iff s x.toNat).2 h)

theorem exec_loadRegs_of_inRange (h : s.i.toNat + x.toNat ≤ 0xFFF) :
    exec (.loadRegs x) s = .next (s.loadBlock s.i.toNat x) :=
  if_neg (mt (outOfRange_dataAddr_iff s x.toNat).1 (Nat.not_lt.2 h))

theorem exec_loadRegs_of_outOfRange (h : 0xFFF < s.i.toNat + x.toNat) :
    exec (.loadRegs x) s = .next (s.halt .addressOutOfRange) :=
  if_pos ((outOfRange_dataAddr_iff s x.toNat).2 h)

end Outcomes

/-! ### Block load and block store (R252, R256) -/

/-- Settles O44: a block load reads the bytes at `I` to `I + x`, and after the store these hold `V0` to `Vx`,
whatever the registers hold by then. -/
theorem loadRegsCopiesFromMemory : Obligations.LoadRegsCopiesFromMemory := by
  intro x s
  refine ⟨decodeWord_encode (.loadRegs x), fun h => ?load, exec_loadRegs_of_outOfRange,
    fun h => ⟨_, exec_storeRegs_of_inRange h, fun m hi hmem => ?roundTrip⟩⟩
  case load =>
    refine ⟨_, exec_loadRegs_of_inRange h, fun k hk => ?_, frame_loadBlock s _ x⟩
    rw [readV_loadBlock, if_pos hk, State.dataAddr]
  case roundTrip =>
    replace hi : m.i = s.i := hi
    refine ⟨_, exec_loadRegs_of_inRange (hi ▸ h), fun k => ?_⟩
    rw [readV_loadBlock]
    split_ifs with hk
    · rw [readByte_of_mem_eq hmem, hi, readByte_writeBytes_regBlock h hk]
    · rfl

/-- Settles O43: the bytes stored are those of the register block, and no other byte changes. -/
theorem storeRegsCopiesToMemory : Obligations.StoreRegsCopiesToMemory := by
  intro x s
  refine ⟨decodeWord_encode (.storeRegs x), fun h => ⟨_, exec_storeRegs_of_inRange h,
    fun k => readByte_writeBytes_regBlock h, ?frame⟩, exec_storeRegs_of_outOfRange⟩
  case frame => exact length_regBlock s x ▸ frame_writeBytes s s.i.toNat (s.regBlock x)

/-! ### The address register (R242 to R246) -/

/-- Settles O40: each is one write of `I`. -/
theorem addressRegisterLoads : Obligations.AddressRegisterLoads := by
  intro nnn x s
  refine ⟨⟨decodeWord_encode (.loadAddr nnn), _, rfl, toNat_zextAddr nnn, frame_writeI s _⟩,
    decodeWord_encode (.addAddr x), _, rfl, ?sum, frame_writeI s _⟩
  case sum => rw [writeI_i, BitVec.toNat_add, toNat_zextByte]

/-- The address of a glyph does not wrap: it is at most 0xFFF + 5 * 0xFF (R246). -/
theorem toNat_glyphAddr (s : State) (d : Byte) :
    (s.glyphAddr d).toNat = s.cfg.fontBase.toNat + 5 * d.toNat := by
  have hbase := s.cfg.fontBase.isLt
  have hd := d.isLt
  exact (BitVec.toNat_ofNat ..).trans (Nat.mod_eq_of_lt (by omega))

/-- Settles O41: a digit's glyph address is one write of `I`; every other byte is a halt. -/
theorem spriteAddressOfADigit : Obligations.SpriteAddressOfADigit := fun x s =>
  ⟨decodeWord_encode (.spriteAddr x), fun h => ⟨_, exec_spriteAddr_of_digit h, toNat_glyphAddr s _,
    frame_writeI s _⟩, exec_spriteAddr_of_not_digit⟩

/-! ### Decimal digits (R248) -/

/-- Byte `k` of a run of stores, at its address (R69). -/
theorem readByte_writeBytes_add (s : State) {a k : Nat} {bs : List Byte} (h : a + bs.length ≤ 4096)
    (hk : k < bs.length) : (s.writeBytes a bs).readByte (a + k) = bs.getD k 0 := by
  rw [readByte_writeBytes s a bs _ h, if_pos (by omega), Nat.add_sub_cancel_left]

/-- The three bytes of `bcd` as numbers: a digit fits in a byte (R248). -/
theorem map_toNat_bcdDigits (b : Byte) :
    (bcdDigits b).map BitVec.toNat = [b.toNat / 100, b.toNat / 10 % 10, b.toNat % 10] := by
  have hb := b.isLt
  simp (disch := omega) only [bcdDigits, List.map_cons, List.map_nil, BitVec.toNat_ofNat,
    Nat.mod_eq_of_lt]

/-- Digit `k` of a byte, where `bcd` stores it (R248). -/
theorem toNat_readByte_bcdDigits (s : State) (b : Byte) {a k : Nat} (h : a + 2 ≤ 0xFFF) (hk : k < 3) :
    ((s.writeBytes a (bcdDigits b)).readByte (a + k)).toNat =
      [b.toNat / 100, b.toNat / 10 % 10, b.toNat % 10].getD k 0 := by
  rw [readByte_writeBytes_add s (Nat.succ_le_succ h) hk, ← map_toNat_bcdDigits]
  exact (List.getD_map ..).symm

/-- Settles O42: the three bytes stored are the digits, and no other byte changes. -/
theorem bcdStoresThreeDigits : Obligations.BcdStoresThreeDigits := by
  intro x s
  refine ⟨decodeWord_encode (.bcd x), fun h => ⟨_, exec_bcd_of_inRange h, ?hundreds, ?tens, ?ones,
    frame_writeBytes s s.i.toNat (bcdDigits (s.readV x))⟩, exec_bcd_of_outOfRange⟩
  case hundreds => exact toNat_readByte_bcdDigits s _ h (k := 0) (by decide)
  case tens => exact toNat_readByte_bcdDigits s _ h (k := 1) (by decide)
  case ones => exact toNat_readByte_bcdDigits s _ h (k := 2) (by decide)

end Sys2Proof.Machine
end

section
/-!
The key and timer instructions (45_keys_timers.md): the outcome of each key instruction by what the step's sample
holds, and the blocked `wait-key` as a whole step.
-/

namespace Sys2Proof.Machine

/-! ### The outcome of each key instruction, by the sample -/

section Outcomes

variable {s : State} {x : RegIx}

theorem exec_skipKeyDown_of_key (h : (s.readV x).toNat ≤ 0x0F) :
    exec (.skipKeyDown x) s = .next (s.skipIf (s.keyDown (s.readV x).toNat)) := if_neg (Nat.not_lt.2 h)

theorem exec_skipKeyDown_of_not_key (h : 0x0F < (s.readV x).toNat) :
    exec (.skipKeyDown x) s = .next (s.halt .keyIndexOutOfRange) := if_pos h

theorem exec_skipKeyUp_of_key (h : (s.readV x).toNat ≤ 0x0F) :
    exec (.skipKeyUp x) s = .next (s.skipIf (!s.keyDown (s.readV x).toNat)) := if_neg (Nat.not_lt.2 h)

theorem exec_skipKeyUp_of_not_key (h : 0x0F < (s.readV x).toNat) :
    exec (.skipKeyUp x) s = .next (s.halt .keyIndexOutOfRange) := if_pos h

/-- With key `k` the least pressed, `wait-key` is one register write (R282). -/
theorem exec_waitKey_of_least {k : Nat} (hk : k < 16) (hdown : s.keys.getLsbD k = true)
    (hleast : ∀ j, j < k → s.keys.getLsbD j = false) :
    exec (.waitKey x) s = .next (s.writeV x (BitVec.ofNat 8 k)) := by
  rw [exec, execWaitKey, lowestKey_eq_some hk hdown hleast]

/-- With no key pressed, `wait-key` only takes `PC` back (R282). -/
theorem exec_waitKey_of_no_key (h : s.keys = 0) : exec (.waitKey x) s = .next s.retreatPc := by
  rw [exec, execWaitKey, (lowestKey_eq_none_iff _).2 h]

end Outcomes

/-- Going back undoes the advance of the fetch; only the tick is left (R123, R282). -/
theorem retreatPc_fetched (s : State) : s.fetched.retreatPc = s.tick :=
  congrArg (fun a => { s.tick with pc := a }) (BitVec.add_sub_cancel s.pc 2)

/-- A skip on a negated condition advances `PC` exactly when the condition fails. -/
theorem skipIf_not_pc (s : State) (c : Bool) : (s.skipIf (!c)).pc = if c then s.pc else s.pc + 2 := by
  cases c <;> rfl

/-! ### The statements -/

/-- Settles O48: the fetch keeps the sample, so the step goes back to the instruction; that is the tick and the
taking of the input. -/
theorem blockedWaitKeyIsAStep : Obligations.BlockedWaitKeyIsAStep := by
  intro x s hs hd hkeys
  have hkeys : s.fetched.keys = 0 := hkeys
  have hstep : step s = .next s.tick.consumeInput := by
    rw [step_of_fetches hs, executeWord_of_ok _ hd, exec_waitKey_of_no_key hkeys,
      retreatPc_fetched, endOfStep]
  exact ⟨_, hstep, rfl, hs.running, (repaint_iff _ _).2 ⟨hs.running, hs.running⟩, toNat_tickCounter s.dt,
    toNat_tickCounter s.st, rfl⟩

/-- Settles O46: each key skip is a `skipIf` of the key's level, `skip-key-up` of its negation, and halts where
`Vx` names no key. -/
theorem keySkipsTestTheLatch : Obligations.KeySkipsTestTheLatch := by
  intro x s
  refine ⟨decodeWord_encode (.skipKeyDown x), decodeWord_encode (.skipKeyUp x), fun h => ⟨?down, ?up⟩,
    fun h => ⟨exec_skipKeyDown_of_not_key h, exec_skipKeyUp_of_not_key h⟩, fun _ => rfl⟩
  case down =>
    refine ⟨_, exec_skipKeyDown_of_key h, frame_skipIf s _, ?_⟩
    rw [skipIf_eq, State.keyDown]
  case up => exact ⟨_, exec_skipKeyUp_of_key h, frame_skipIf s _, skipIf_not_pc s _⟩

/-- Settles O47: the least pressed key fits in a byte; with no key pressed only `PC` is written. -/
theorem waitKeyDeliversTheLeastKeyOrWaits : Obligations.WaitKeyDeliversTheLeastKeyOrWaits := by
  intro x s
  refine ⟨decodeWord_encode (.waitKey x), fun k hk hdown hleast => ?delivers, fun h => ?waits⟩
  case delivers =>
    refine ⟨_, exec_waitKey_of_least hk hdown hleast, ?_, frame_writeV s x _⟩
    rw [readV_writeV_dest, BitVec.toNat_ofNat, Nat.mod_eq_of_lt (by omega)]
  case waits => exact ⟨_, exec_waitKey_of_no_key h, rfl, frame_retreatPc s⟩

/-- Settles O49: `read-delay` is one register write, the other two one timer write each. -/
theorem timerInstructionsCopy : Obligations.TimerInstructionsCopy := fun x s =>
  ⟨⟨decodeWord_encode (.readDelay x), _, rfl, readV_writeV_dest s x _, frame_writeV s x _⟩,
    ⟨decodeWord_encode (.setDelay x), _, rfl, rfl, frame_writeDt s _⟩,
    decodeWord_encode (.setSound x), _, rfl, rfl, frame_writeSt s _⟩

end Sys2Proof.Machine
end

section
/-!
Halts and timers (60_exceptions.md): the condition under which each instruction halts and the cause it names, said
once as `HaltsWith`; the state at a halt; and the tick of a step.
-/

namespace Sys2Proof.Machine

/-! ### Which instruction halts, when, and with which cause (R302, R304) -/

/-- The condition under which an instruction halts in the state after fetch and tick, and its cause (R302). -/
inductive HaltsWith (s : State) : Instr → Cause → Prop
  | ret (h : s.sp.val = 0) : HaltsWith s .ret .stackUnderflow
  | call {nnn} (h : s.sp.val = 16) : HaltsWith s (.call nnn) .stackOverflow
  | draw {x y n} (h0 : 0 < n.toNat) (h : 0xFFF < s.i.toNat + n.toNat - 1) :
    HaltsWith s (.draw x y n) .addressOutOfRange
  | bcd {x} (h : 0xFFF < s.i.toNat + 2) : HaltsWith s (.bcd x) .addressOutOfRange
  | storeRegs {x} (h : 0xFFF < s.i.toNat + x.toNat) : HaltsWith s (.storeRegs x) .addressOutOfRange
  | loadRegs {x} (h : 0xFFF < s.i.toNat + x.toNat) : HaltsWith s (.loadRegs x) .addressOutOfRange
  | skipKeyDown {x} (h : 0x0F < (s.readV x).toNat) : HaltsWith s (.skipKeyDown x) .keyIndexOutOfRange
  | skipKeyUp {x} (h : 0x0F < (s.readV x).toNat) : HaltsWith s (.skipKeyUp x) .keyIndexOutOfRange
  | spriteAddr {x} (h : 0x0F < (s.readV x).toNat) : HaltsWith s (.spriteAddr x) .fontIndexOutOfRange

section Halts

variable {i : Instr} {s t : State} {c : Cause}

/-- Under its condition an instruction halts with its cause. -/
theorem HaltsWith.exec_eq (h : HaltsWith s i c) : exec i s = .next (s.halt c) := by
  cases h with
  | ret h => exact exec_ret_of_empty h
  | call h => exact exec_call_of_full h
  | draw h0 h => exact exec_draw_of_outOfRange h0 h
  | bcd h => exact exec_bcd_of_outOfRange h
  | storeRegs h => exact exec_storeRegs_of_outOfRange h
  | loadRegs h => exact exec_loadRegs_of_outOfRange h
  | skipKeyDown h => exact exec_skipKeyDown_of_not_key h
  | skipKeyUp h => exact exec_skipKeyUp_of_not_key h
  | spriteAddr h => exact exec_spriteAddr_of_not_digit h

/-- What an instruction answers under its condition is the halt. -/
theorem HaltsWith.eq_halt (h : HaltsWith s i c) (hx : exec i s = .next t) : t = s.halt c := by
  rw [h.exec_eq] at hx
  cases hx
  rfl

/-- The causes of the execute phase (R302). -/
theorem HaltsWith.mem_causes (h : HaltsWith s i c) : c ∈ [.stackOverflow, .stackUnderflow,
    .addressOutOfRange, .keyIndexOutOfRange, .fontIndexOutOfRange] := by
  cases h <;> decide

/-- No instruction raises the cause of an undefined word (R126). -/
theorem HaltsWith.ne_undefinedInstruction (h : HaltsWith s i c) : c ≠ .undefinedInstruction := by
  rintro rfl
  exact absurd h.mem_causes (by decide)

/-- Under no such condition an instruction keeps `STATUS`: it is none that can halt, or its guard passes. -/
theorem exec_keeps_status (hno : ∀ c, ¬ HaltsWith s i c) (hx : exec i s = .next t) :
    t.status = s.status := by
  by_contra hne
  have absurd_of_eq {u : State} (hu : exec i s = .next u) (hk : u.status = s.status) : False := by
    rw [hu] at hx
    cases hx
    exact hne hk
  obtain rfl | ⟨nnn, rfl⟩ | ⟨x, y, n, rfl⟩ | ⟨x, rfl | rfl | rfl | rfl | rfl | rfl⟩ :=
    Instr.eq_of_canHalt ((exec_effect hx).status_changed (.inl hne)).2
  · exact absurd_of_eq (exec_ret_of_pos (Nat.pos_of_ne_zero fun h => hno _ (.ret h))) rfl
  · have hfull : s.sp.val ≠ 16 := fun h => hno _ (.call h)
    exact absurd_of_eq (exec_call_of_room (by omega)) rfl
  · have hout : ¬ (0 < n.toNat ∧ 0xFFF < s.i.toNat + n.toNat - 1) := fun ⟨h0, h⟩ => hno _ (.draw h0 h)
    exact absurd_of_eq (exec_draw_of_inRange (by omega)) rfl
  · exact absurd_of_eq (exec_bcd_of_inRange (Nat.not_lt.1 fun h => hno _ (.bcd h))) rfl
  · exact absurd_of_eq (exec_storeRegs_of_inRange (Nat.not_lt.1 fun h => hno _ (.storeRegs h))) rfl
  · exact absurd_of_eq (exec_loadRegs_of_inRange (Nat.not_lt.1 fun h => hno _ (.loadRegs h))) rfl
  · exact absurd_of_eq (exec_skipKeyDown_of_key (Nat.not_lt.1 fun h => hno _ (.skipKeyDown h)))
      (frame_skipIf s _).status
  · exact absurd_of_eq (exec_skipKeyUp_of_key (Nat.not_lt.1 fun h => hno _ (.skipKeyUp h)))
      (frame_skipIf s _).status
  · exact absurd_of_eq (exec_spriteAddr_of_digit (Nat.not_lt.1 fun h => hno _ (.spriteAddr h))) rfl

/-- An instruction halts a running engine exactly under its condition. -/
theorem exec_halted_iff (hs : s.status = .running) (hx : exec i s = .next t) :
    t.status = .halted ↔ ∃ c, HaltsWith s i c := by
  constructor
  · intro ht
    by_contra hno
    rw [exec_keeps_status (not_exists.1 hno) hx, hs] at ht
    cases ht
  · rintro ⟨c, hc⟩
    rw [hc.eq_halt hx, halt_status]

/-- The three causes of a halt before the fetch (R121, R122). -/
theorem preFetchHalt_mem_causes (h : s.preFetchHalt = some c) :
    c ∈ [.endReached, .fetchOutOfBounds, .pcMisaligned] := by
  obtain ⟨rfl, -⟩ | ⟨rfl, -⟩ | ⟨rfl, -⟩ := preFetchHalt_cases h <;> decide

end Halts

/-- Settles O13: a halt, before the fetch or after it, is a next state as well. -/
theorem everyStepAnswersANextState : Obligations.EveryStepAnswersANextState := step_answers_next

/-- Settles O16: each disjunct is one constructor of `HaltsWith`, two where the statement joins two
instructions. -/
theorem eachInstructionRaisesItsOneCause : Obligations.EachInstructionRaisesItsOneCause := by
  intro i s t hs hx
  rw [exec_halted_iff hs hx]
  refine ⟨⟨?condition, ?halts⟩, ?cause⟩
  case condition =>
    rintro ⟨c, hc⟩
    cases hc with
    | ret h => exact .inl ⟨rfl, h⟩
    | call h => exact .inr (.inl ⟨_, rfl, h⟩)
    | draw h0 h => exact .inr (.inr (.inl ⟨_, _, _, rfl, h0, h⟩))
    | bcd h => exact .inr (.inr (.inr (.inl ⟨_, rfl, h⟩)))
    | storeRegs h => exact .inr (.inr (.inr (.inr (.inl ⟨_, .inl rfl, h⟩))))
    | loadRegs h => exact .inr (.inr (.inr (.inr (.inl ⟨_, .inr rfl, h⟩))))
    | skipKeyDown h => exact .inr (.inr (.inr (.inr (.inr (.inl ⟨_, .inl rfl, h⟩)))))
    | skipKeyUp h => exact .inr (.inr (.inr (.inr (.inr (.inl ⟨_, .inr rfl, h⟩)))))
    | spriteAddr h => exact .inr (.inr (.inr (.inr (.inr (.inr ⟨_, rfl, h⟩)))))
  case halts =>
    rintro (⟨rfl, h⟩ | ⟨nnn, rfl, h⟩ | ⟨x, y, n, rfl, h0, h⟩ | ⟨x, rfl, h⟩ | ⟨x, rfl | rfl, h⟩ |
      ⟨x, rfl | rfl, h⟩ | ⟨x, rfl, h⟩)
    · exact ⟨_, .ret h⟩
    · exact ⟨_, .call h⟩
    · exact ⟨_, .draw h0 h⟩
    · exact ⟨_, .bcd h⟩
    · exact ⟨_, .storeRegs h⟩
    · exact ⟨_, .loadRegs h⟩
    · exact ⟨_, .skipKeyDown h⟩
    · exact ⟨_, .skipKeyUp h⟩
    · exact ⟨_, .spriteAddr h⟩
  case cause =>
    rintro ⟨c, hc⟩
    rw [hc.eq_halt hx, halt_cause]
    cases hc <;> simp

/-- Settles O14: of the four kinds of step, one halts before the fetch, and the two after it are halts of the
state after fetch and tick, the instruction's with its input taken. -/
theorem haltsArePrecise : Obligations.HaltsArePrecise := by
  intro s t hs hstep ht
  obtain ⟨hh, -⟩ | ⟨-, c, hc, rfl⟩ | ⟨-, hn, -, rfl⟩ | ⟨-, hn, i, u, -, hx, rfl⟩ := step_cases hstep
  · rw [hs] at hh
    cases hh
  · exact .inl ⟨preFetchHalt_mem_causes hc, rfl⟩
  · exact .inr ⟨List.mem_cons_self, toNat_fetched_pc ((fetches_iff s).2 ⟨hs, hn⟩), toNat_tickCounter s.dt,
      toNat_tickCounter s.st, rfl⟩
  · obtain ⟨c, hc⟩ := (exec_halted_iff (s := s.fetched) hs hx).1 ht
    obtain rfl := hc.eq_halt hx
    refine .inr ⟨List.mem_cons_of_mem _ hc.mem_causes, toNat_fetched_pc ((fetches_iff s).2 ⟨hs, hn⟩),
      toNat_tickCounter s.dt, toNat_tickCounter s.st, ?_⟩
    rw [consumeInput_cause, halt_cause, if_neg hc.ne_undefinedInstruction,
      if_neg hc.ne_undefinedInstruction]
    rfl

/-! ### The timers (R322 to R326) -/

/-- An instruction other than `set-delay` keeps `DT` (R33). -/
theorem exec_keeps_dt {i : Instr} {s t : State} (hx : exec i s = .next t) (hi : ∀ x, i ≠ .setDelay x) :
    t.dt = s.dt :=
  not_not.1 fun hne => not_exists.2 hi ((exec_effect hx).dt_changed hne)

/-- An instruction other than `set-sound` keeps `ST` (R33). -/
theorem exec_keeps_st {i : Instr} {s t : State} (hx : exec i s = .next t) (hi : ∀ x, i ≠ .setSound x) :
    t.st = s.st :=
  not_not.1 fun hne => not_exists.2 hi ((exec_effect hx).st_changed hne)

/-- Settles O17: the two kinds of step that fetch start from the tick of the fetched state, and the other two
leave both timers alone. -/
theorem timersTickOncePerFetchedWord : Obligations.TimersTickOncePerFetchedWord := by
  intro s t hstep
  rw [fetches_iff]
  obtain ⟨hs, rfl⟩ | ⟨-, c, hc, rfl⟩ | ⟨hs, hn, ⟨e, he⟩, rfl⟩ | ⟨hs, hn, i, u, hd, hx, rfl⟩ :=
    step_cases hstep
  · refine ⟨fun ⟨hr, _⟩ => ?_, fun _ => ⟨rfl, rfl⟩⟩
    rw [hs] at hr
    cases hr
  · refine ⟨fun ⟨_, hn⟩ => ?_, fun _ => ⟨rfl, rfl⟩⟩
    rw [hc] at hn
    cases hn
  · rw [he]
    exact ⟨fun _ => ⟨fun _ => toNat_tickCounter s.dt, fun _ => toNat_tickCounter s.st, nofun, nofun⟩,
      fun hf => absurd ⟨hs, hn⟩ hf⟩
  · rw [hd]
    refine ⟨fun _ => ⟨fun hi => ?dt, fun hi => ?st, fun x hi => ?delay, fun x hi => ?sound⟩,
      fun hf => absurd ⟨hs, hn⟩ hf⟩
    case dt =>
      rw [consumeInput_dt, exec_keeps_dt hx fun x h => hi x (congrArg _ h)]
      exact toNat_tickCounter s.dt
    case st =>
      rw [consumeInput_st, exec_keeps_st hx fun x h => hi x (congrArg _ h)]
      exact toNat_tickCounter s.st
    case delay | sound =>
      cases hi
      cases hx
      rfl

/-- Settles O18, by induction on the number of ticks: each takes 1 more, stopping at 0. -/
theorem timersCountDownToZeroAndStay : Obligations.TimersCountDownToZeroAndStay := by
  intro s k
  induction k with
  | zero => exact ⟨rfl, rfl⟩
  | succ k ih =>
    obtain ⟨hdt, hst⟩ := ih
    rw [Function.iterate_succ_apply', tick_dt, tick_st, toNat_tickCounter, toNat_tickCounter, hdt, hst]
    exact ⟨Nat.sub_sub .., Nat.sub_sub ..⟩

end Sys2Proof.Machine
end

section
/-!
The launch of the machine (70_reset_and_hazards.md R354, R356), as one operation and as the host's moves.
-/

namespace Sys2Proof.Machine

/-- The launch state (R354): reset, font and program in memory, the configuration presented. -/
def State.launched (s : State) (l : LaunchPlan) : State :=
  { (s.rst.writeBytes l.fontBase.toNat l.fontData.toList).writeBytes 0x200 l.program with
    cfg := launchConfig l }

section Launch

variable {s : State} {l : LaunchPlan}

/-! ### What a launch answers -/

/-- A font that overlaps the program region is refused (93_implementation_defined.md U14, U17). -/
theorem launch_of_font_outside (hf : 0x200 < l.fontBase.toNat + 80) :
    s.launch l = .refused .invalidConfiguration := by
  have hfont : l.fontFits = false := decide_eq_false (Nat.not_le.2 hf)
  rw [State.launch, hfont]
  rfl

/-- An image longer than the program region is a load failure (R354 (3)). -/
theorem launch_of_program_too_long (hf : l.fontBase.toNat + 80 ≤ 0x200) (hp : 3584 < l.program.length) :
    s.launch l = .fault .loadFailure := by
  have hfont : l.fontFits = true := decide_eq_true hf
  have hprogram : l.programFits = false := decide_eq_false (Nat.not_le.2 hp)
  rw [State.launch, hfont, hprogram]
  rfl

/-- A launch that fits answers the launch state (R354). -/
theorem launch_of_fits (h : l.fits = true) : s.launch l = .next (s.launched l) := by
  obtain ⟨hfont, hprogram⟩ := Bool.and_eq_true_iff.1 h
  rw [State.launch, hfont, hprogram]
  rfl

/-! ### The memory of the launch state -/

/-- The program region holds the program (R356). -/
theorem readByte_launched_program (h : l.fits = true) (k : Fin l.program.length) :
    (s.launched l).readByte (0x200 + k.val) = l.program[k] := by
  obtain ⟨-, hp⟩ := (fits_iff l).1 h
  refine (readByte_writeBytes_add _ (by omega) k.isLt).trans ?_
  simp

/-- Outside the program the launch state reads as the font's writes leave it. -/
theorem readByte_launched_of_not_program {a : Nat} (ha : a < 0x200 ∨ 0x200 + l.program.length ≤ a) :
    (s.launched l).readByte a =
      (s.rst.writeBytes l.fontBase.toNat l.fontData.toList).readByte a :=
  Memory.read_writeBytes_outside _ _ _ _ ha

/-- The font stands where the configuration says (R62, R356): the program's writes start above it. -/
theorem readByte_launched_font (h : l.fits = true) (k : Fin 80) :
    (s.launched l).readByte (l.fontBase.toNat + k.val) = l.fontData[k] := by
  obtain ⟨hf, -⟩ := (fits_iff l).1 h
  have hk := k.isLt
  have hlen : l.fontData.toList.length = 80 := l.fontData.length_toList
  rw [readByte_launched_of_not_program (.inl (by omega)),
    readByte_writeBytes_add _ (by omega) (by omega)]
  simp

/-- Every other byte is as it was (R350, R356). -/
theorem readByte_launched_outside {a : Nat} (hf : a < l.fontBase.toNat ∨ l.fontBase.toNat + 80 ≤ a)
    (hp : a < 0x200 ∨ 0x200 + l.program.length ≤ a) : (s.launched l).readByte a = s.readByte a := by
  rw [readByte_launched_of_not_program hp]
  exact Memory.read_writeBytes_outside _ _ _ _ (by rwa [l.fontData.length_toList])

/-! ### The moves of a launch -/

/-- Moves that begin with one that exists go on from the block it leaves. -/
theorem moves_cons_of_move {b b' : Block} {m : HostMove} (hm : b.move m = some b') (ms : List HostMove) :
    Block.moves (m :: ms) b = Block.moves ms b' := by
  rw [Block.moves, hm, Option.bind_some]

/-- Loads of bytes that fit into memory, and then further moves: the block stays in reset between them. -/
theorem moves_loadMoves_append {bs : List Byte} {a : Nat} (h : a + bs.length ≤ 4096) (ms : List HostMove) :
    Block.moves (loadMoves a bs ++ ms) ⟨s.rst, true⟩ =
      Block.moves ms ⟨(s.rst.writeBytes a bs).rst, true⟩ := by
  rw [moves_append, moves_loadMoves bs s a h, Option.bind_some, rst_writeBytes_rst]

/-- While `rst` is asserted a legal configuration lets it be released (R41, R356 (a)). -/
theorem move_releaseRst_of_asserted {b : Block} (hb : b.rst = true) (hc : b.state.cfg.wellFormed = true) :
    b.move .releaseRst = some ⟨b.state.rst, false⟩ := by
  simp [Block.move, Block.release, hb, hc]

/-- A legal configuration is presented and `rst` released (R354 (4), (5)). -/
theorem moves_configure_release {c : Config} (hc : c.wellFormed = true) :
    Block.moves [.configure c, .releaseRst] ⟨s.rst, true⟩ = some ⟨{ s.rst with cfg := c }, false⟩ := by
  rw [moves_cons_of_move rfl, moves_cons_of_move (move_releaseRst_of_asserted rfl hc)]
  rfl

/-- The moves of a launch that fits release the block in the launch state (R354). -/
theorem moves_launchMoves_of_fits (b : Block) (h : l.fits = true) :
    Block.moves (launchMoves l) b = some ⟨b.state.launched l, false⟩ := by
  obtain ⟨hf, hp⟩ := (fits_iff l).1 h
  have hlen : l.fontData.toList.length = 80 := l.fontData.length_toList
  rw [launchMoves, if_pos h, moves_cons_of_move rfl, moves_loadMoves_append (by omega),
    moves_loadMoves_append (by omega), moves_configure_release (launchConfig_wellFormed h).2]
  rfl

end Launch

/-- Settles O9: the font is tested first, then the program. -/
theorem invalidLaunchIsRejected : Obligations.InvalidLaunchIsRejected :=
  fun _ _ => ⟨launch_of_font_outside, launch_of_program_too_long⟩

/-- Settles O8: the bytes of the launch state by where they lie, its configuration legal because the launch
fits. -/
theorem launchLoadsFontAndProgram : Obligations.LaunchLoadsFontAndProgram := by
  intro s l hf hp
  have hfit : l.fits = true := (fits_iff l).2 ⟨hf, hp⟩
  obtain ⟨hend, hwf⟩ := launchConfig_wellFormed hfit
  exact ⟨s.launched l, launch_of_fits hfit, readByte_launched_font hfit, readByte_launched_program hfit,
    fun _ => readByte_launched_outside, hend, rfl, rfl, rfl, hwf, rfl⟩

/-- Settles O51: the moves of a launch that fits end where `State.launch` does; of any other launch the one
move is to assert `rst`. -/
theorem launchIsTheHostsMoves : Obligations.LaunchIsTheHostsMoves := by
  intro b l
  refine ⟨fun hf hp => ?fits, fun hbad => ?notFits⟩
  case fits =>
    have hfit : l.fits = true := (fits_iff l).2 ⟨hf, hp⟩
    exact ⟨b.state.launched l, launch_of_fits hfit, moves_launchMoves_of_fits b hfit⟩
  case notFits =>
    have hfit : ¬ l.fits = true := by rw [fits_iff]; omega
    rw [launchMoves_of_not_fits (eq_false_of_ne_true hfit)]
    exact ⟨fun t ht => hfit (launch_eq_next ht).1, by simp, rfl⟩

end Sys2Proof.Machine
end
